-- ==== Sys2Proof/Word.lean ====
section
/-! DEFINITION. The fixed widths of R8 and R71: host words, bytes, 7-bit bus addresses, 5-bit host offsets. -/

namespace Sys2Proof

/-- A host register value or command word (R8, R34, R100). -/
abbrev Word := BitVec 32

/-- A command byte, a data byte or an address byte on the bus (R8, R76). -/
abbrev Byte := BitVec 8

/-- A target address, "an unsigned 7-bit value" (R8, R73). -/
abbrev BusAddr := BitVec 7

/-- A byte offset in the 32-byte host window (R71). -/
abbrev HostOff := BitVec 5

end Sys2Proof
end

