-- ==== Sys2Proof/Syntax.lean ====
section
/-! DEFINITION. The command set (R102, R103) as the one inductive `Instr`, the opcodes, and the assembler's
statements (R109, R110). -/

namespace Sys2Proof

/-- The two target registers a command can select (R74): REG = 0 is the temperature-result register, REG = 1 the
configuration register (R101). -/
inductive TargetReg where
  | temp
  | config
deriving DecidableEq, Repr

/-- The seven opcodes of R102. -/
inductive Opcode where
  | init | probe | readConfig | readTemp | setStandby | readReg | writeReg
deriving DecidableEq, Repr

/-- A command with its operands (R103): one constructor per row of the opcode table. Each operand has the type of the
field it is read from, so every value of `Instr` is a command some word encodes. -/
inductive Instr where
  /-- INIT (R190). -/
  | init
  /-- PROBE ADDR (R170). -/
  | probe (addr : BusAddr)
  /-- READ_CONFIG ADDR (R171). -/
  | readConfig (addr : BusAddr)
  /-- READ_TEMP ADDR (R172). The offset is taken from the OFFSET register. -/
  | readTemp (addr : BusAddr)
  /-- SET_STANDBY ADDR, EN (R174). -/
  | setStandby (addr : BusAddr) (en : Bool)
  /-- READ_REG ADDR, REG (R162). -/
  | readReg (addr : BusAddr) (reg : TargetReg)
  /-- WRITE_REG ADDR, REG, VALUE (R163). -/
  | writeReg (addr : BusAddr) (reg : TargetReg) (value : Byte)
deriving DecidableEq, Repr

/-- The opcode of a command. -/
def Instr.opcode : Instr → Opcode
  | .init => .init
  | .probe _ => .probe
  | .readConfig _ => .readConfig
  | .readTemp _ => .readTemp
  | .setStandby _ _ => .setStandby
  | .readReg _ _ => .readReg
  | .writeReg _ _ _ => .writeReg

/-- The ADDR operand of a command; INIT has none, and its ADDR field is 0 (R103). -/
def Instr.addr : Instr → BusAddr
  | .init => 0#7
  | .probe a => a
  | .readConfig a => a
  | .readTemp a => a
  | .setStandby a _ => a
  | .readReg a _ => a
  | .writeReg a _ _ => a

/-- An assembler statement (R109) or pseudo-instruction (R110) as it is written, before any range check: operands are
the numbers of the text. -/
inductive Stmt where
  | init
  | probe (a : Nat)
  | readConfig (a : Nat)
  | readTemp (a : Nat)
  | setStandby (a e : Nat)
  | readReg (a r : Nat)
  | writeReg (a r v : Nat)
  /-- `.word w`: a raw command word. -/
  | word (w : Nat)
  /-- `WR off, v`: a raw host write. -/
  | wr (off v : Nat)
  /-- `RD off`: a raw host read. -/
  | rd (off : Nat)
  /-- `SETOFF o`. -/
  | setOff (o : Int)
  /-- `STANDBY a`. -/
  | standby (a : Nat)
  /-- `WAKE a`. -/
  | wake (a : Nat)
  /-- `WAIT`. -/
  | wait
  /-- `RUN stmt`. -/
  | run (st : Stmt)
  /-- `READ_TEMP a, o`. -/
  | readTempOffset (a : Nat) (o : Int)
  /-- `CLEAR`. -/
  | clear
  /-- `SCAN`. -/
  | scan
deriving DecidableEq, Repr

end Sys2Proof
end

