-- ==== Sys2Proof/WellFormed.lean ====
section
/-! DEFINITION. When a statement of the assembler is well formed (R109): "The assembler refuses an operand out of range
(a > 0x7F, e or r > 1, v > 0xFF) rather than truncating it". A command of type `Instr` needs no check: its operands have
the widths of their fields. -/

namespace Sys2Proof

/-- `a` is a 7-bit address. -/
def addrInRange (a : Nat) : Bool := a ≤ 0x7F

/-- `b` is a one-bit operand (EN or REG). -/
def bitInRange (b : Nat) : Bool := b ≤ 1

/-- `v` is a byte. -/
def byteInRange (v : Nat) : Bool := v ≤ 0xFF

/-- `w` is a 32-bit word. -/
def wordInRange (w : Nat) : Bool := w < 2 ^ 32

/-- `off` is an aligned word offset of the host window (R71, R77). -/
def offInRange (off : Nat) : Bool := off < 32 && off % 4 == 0

/-- The range checks of R109, one per operand. The bounds of a raw word and of a raw access are those of the host port
(R71, R77). -/
def Stmt.wellFormed : Stmt → Bool
  | .init => true
  | .probe a => addrInRange a
  | .readConfig a => addrInRange a
  | .readTemp a => addrInRange a
  | .setStandby a e => addrInRange a && bitInRange e
  | .readReg a r => addrInRange a && bitInRange r
  | .writeReg a r v => addrInRange a && bitInRange r && byteInRange v
  | .word w => wordInRange w
  | .wr off v => offInRange off && wordInRange v
  | .rd off => offInRange off
  | .setOff _ => true
  | .standby a => addrInRange a
  | .wake a => addrInRange a
  | .wait => true
  | .run st => st.wellFormed
  | .readTempOffset a _ => addrInRange a
  | .clear => true
  | .scan => true

end Sys2Proof
end

