-- ==== Sys2Proof/Decode.lean ====
section
/-! DEFINITION. The command word: fields (R101), the table of masks and matches (R103), `Legal` (R105), the decoder,
and after it the encoder. -/

namespace Sys2Proof

/-- Field OP, bits 3:0 (R101). -/
def fieldOp (w : Word) : BitVec 4 := w.extractLsb' 0 4

/-- Field REG, bit 4 (R101). -/
def fieldReg (w : Word) : Bool := w.getLsbD 4

/-- Field EN, bit 5 (R101). -/
def fieldEn (w : Word) : Bool := w.getLsbD 5

/-- Field ADDR, bits 14:8 (R101). -/
def fieldAddr (w : Word) : BusAddr := w.extractLsb' 8 7

/-- Field VALUE, bits 23:16 (R101). -/
def fieldValue (w : Word) : Byte := w.extractLsb' 16 8

/-- The reserved bits 7:6, 15 and 31:24 (R101). -/
def reservedMask : Word := 0xFF0080C0#32

/-- REG as a register (R101): 0 is the temperature-result register, 1 the configuration register. -/
def regOfBit (b : Bool) : TargetReg := if b then .config else .temp

/-- The REG bit that names a register (R101). -/
def regBit : TargetReg → Bool
  | .temp => false
  | .config => true

/-- Opcode values (R102). -/
def opBits : Opcode → BitVec 4
  | .init => 0x1#4
  | .probe => 0x2#4
  | .readConfig => 0x3#4
  | .readTemp => 0x4#4
  | .setStandby => 0x5#4
  | .readReg => 0x6#4
  | .writeReg => 0x7#4

/-- The opcode a 4-bit value names; 0x0 and 0x8 to 0xF are reserved (R102, R107). -/
def opOfBits (b : BitVec 4) : Option Opcode :=
  if b = 0x1#4 then some .init
  else if b = 0x2#4 then some .probe
  else if b = 0x3#4 then some .readConfig
  else if b = 0x4#4 then some .readTemp
  else if b = 0x5#4 then some .setStandby
  else if b = 0x6#4 then some .readReg
  else if b = 0x7#4 then some .writeReg
  else none

/-- The mask of a row of R103. -/
def rowMask : Opcode → Word
  | .init => 0xFFFFFFFF#32
  | .probe => 0xFFFF80FF#32
  | .readConfig => 0xFFFF80FF#32
  | .readTemp => 0xFFFF80FF#32
  | .setStandby => 0xFFFF80DF#32
  | .readReg => 0xFFFF80EF#32
  | .writeReg => 0xFF0080EF#32

/-- The match of a row of R103. -/
def rowMatch : Opcode → Word
  | .init => 0x00000001#32
  | .probe => 0x00000002#32
  | .readConfig => 0x00000003#32
  | .readTemp => 0x00000004#32
  | .setStandby => 0x00000005#32
  | .readReg => 0x00000006#32
  | .writeReg => 0x00000007#32

/-- The word hits a row of R103: `w & mask(m) = match(m)`. -/
def hitsRow (w : Word) (op : Opcode) : Bool := w &&& rowMask op == rowMatch op

/-- The rows of the opcode table, in its order. -/
def allOpcodes : List Opcode :=
  [.init, .probe, .readConfig, .readTemp, .setStandby, .readReg, .writeReg]

/-- `Legal(w)` (R105): the word matches one row. -/
def legal (w : Word) : Bool := allOpcodes.any (hitsRow w)

/-- Why a word is no command (R106). The controller treats every reason alike (ILLEGAL_CMD); the name only says which
constraint of R103 or R107 the word breaks first. -/
inductive DecodeError where
  /-- OP is 0x0 or 0x8 to 0xF (R107). -/
  | reservedOpcode
  /-- One of the bits 7:6, 15, 31:24 is 1 (R101, R106). -/
  | reservedBit
  /-- A field the opcode does not use is not 0 (R103, R106). -/
  | unusedField
deriving DecidableEq, Repr

/-- The name of the constraint a word that is no command breaks. -/
def whyIllegal (w : Word) : DecodeError :=
  if opOfBits (fieldOp w) = none then .reservedOpcode
  else if w &&& reservedMask ≠ 0#32 then .reservedBit
  else .unusedField

/-- The command a word of a given opcode carries: its fields read at the places of R101. -/
def readFields (op : Opcode) (w : Word) : Instr :=
  match op with
  | .init => .init
  | .probe => .probe (fieldAddr w)
  | .readConfig => .readConfig (fieldAddr w)
  | .readTemp => .readTemp (fieldAddr w)
  | .setStandby => .setStandby (fieldAddr w) (fieldEn w)
  | .readReg => .readReg (fieldAddr w) (regOfBit (fieldReg w))
  | .writeReg => .writeReg (fieldAddr w) (regOfBit (fieldReg w)) (fieldValue w)

/-- The decoder (R103, R105, R106): total on every word. The opcode picks the row, and the row's mask and match decide. -/
def decode (w : Word) : Except DecodeError Instr :=
  match opOfBits (fieldOp w) with
  | some op => if hitsRow w op then .ok (readFields op w) else .error (whyIllegal w)
  | none => .error (whyIllegal w)

/-- A one-bit field. -/
def bit1 (b : Bool) : BitVec 1 := BitVec.ofBool b

/-- The pattern of R101, most significant bit first: `00000000 vvvvvvvv 0aaaaaaa 00eg oooo`. -/
def layWord (v : Byte) (a : BusAddr) (e g : Bool) (o : BitVec 4) : Word :=
  0#8 ++ v ++ 0#1 ++ a ++ 0#2 ++ bit1 e ++ bit1 g ++ o

/-- The encoder (R101 to R103): the word of a command, every unused field 0. -/
def encode : Instr → Word
  | .init => layWord 0#8 0#7 false false (opBits .init)
  | .probe a => layWord 0#8 a false false (opBits .probe)
  | .readConfig a => layWord 0#8 a false false (opBits .readConfig)
  | .readTemp a => layWord 0#8 a false false (opBits .readTemp)
  | .setStandby a e => layWord 0#8 a e false (opBits .setStandby)
  | .readReg a r => layWord 0#8 a false (regBit r) (opBits .readReg)
  | .writeReg a r v => layWord v a false (regBit r) (opBits .writeReg)

/-- The instruction the decoder reads from the `nbits` low bits of `w`. A command is exactly one 32-bit word (R108), so
bits above it are no command. -/
def decodeTableWord (nbits w : Nat) : Option Instr :=
  let n := w % 2 ^ nbits
  if n < 2 ^ 32 then
    match decode (BitVec.ofNat 32 n) with
    | .ok i => some i
    | .error _ => none
  else none

end Sys2Proof
end

