-- ==== Sys2Proof/Config.lean ====
section
/-! DEFINITION. The implementation parameters of R7. The parameters a step reads are gathered in `Params`, which State
carries as an argument that no step writes: every statement over all states is a statement over all parameters (log 2). -/

namespace Sys2Proof

/-- The parameters of R7 that the machine's rules read. -/
structure Params where
  /-- `P_LEGAL_ADDRS`: the admissible target addresses (R73). -/
  legalAddrs : List BusAddr
  /-- `P_CMD_TEMP`: the command byte of the temperature-result register (R74). -/
  cmdTemp : Byte
  /-- `P_CMD_CONFIG`: the command byte of the configuration register (R74). -/
  cmdConfig : Byte
  /-- `P_PROBE_LEN`: data bytes read by PROBE, 0 or 1 (R170). -/
  probeLen : Fin 2
  /-- `P_SCL_HZ`: the bus clock rate INIT sets (R191). -/
  sclHz : Nat
  /-- `P_Q_CYCLES`: the length of QUIESCE in controller clock cycles (R127). -/
  qCycles : Nat
deriving DecidableEq, Repr

/-- What R7 asks of the parameters: 8 distinct addresses, two different command bytes, at least one cycle of
quiescence. -/
def Params.WellFormed (p : Params) : Prop :=
  p.legalAddrs.length = 8 ∧ p.legalAddrs.Nodup ∧ p.cmdTemp ≠ p.cmdConfig ∧ 1 ≤ p.qCycles

/-- The quiescence bound of R7: `P_Q_CYCLES / f_clk ≥ P_T_QUIESCE`, for a controller clock of `fClkHz` and a minimum
idle time of `tQuiesceNs` nanoseconds (both OPEN, log 21). -/
def Params.MeetsQuiescence (p : Params) (fClkHz tQuiesceNs : Nat) : Prop :=
  tQuiesceNs * fClkHz ≤ p.qCycles * 10 ^ 9

/-- `P_Q_CYCLES - 1` of the machine after reset. OPEN in R7, so it has no value here (log 2). -/
opaque Config.openQCycles : Nat

/-- `P_HOST_BASE`, OPEN in R7 and R83 (log 17). -/
opaque Config.hostBase : Nat

/-- The defaults of R7, with `P_Q_CYCLES` any number that is at least 1 (log 16). -/
def Params.default : Params where
  legalAddrs := [0x48#7, 0x49#7, 0x4A#7, 0x4B#7, 0x4C#7, 0x4D#7, 0x4E#7, 0x4F#7]
  cmdTemp := 0x00#8
  cmdConfig := 0x01#8
  probeLen := 1
  sclHz := 100000
  qCycles := Config.openQCycles + 1

/-- `TEMP_SENTINEL` (R7): READ_TEMP's failure value. -/
def tempSentinel : Word := 404#32

/-- `CFG_SENTINEL` (R7): READ_CONFIG's failure value. -/
def cfgSentinel : Word := 255#32

end Sys2Proof
end

