-- ==== Sys2Proof/Machine/State.lean ====
section
/-! DEFINITION. The machine's state (10_state.md), the inputs its agents give it (R30, R85), and the reasons it can
stop. State is plain data. -/

namespace Sys2Proof.Machine

/-- SEQ, the sequencer state (R50): it plays the part of a program counter. -/
inductive Seq where
  | idle | cfg | probeRd | wrTx | rdTx | quiesce | check
deriving DecidableEq, Repr

/-- The completion codes of R201, the only values STATUS.CODE ever holds (R41). -/
inductive Code where
  | ok | failWrite | failRead | notReady | illegalCmd | illegalAddr | notInit | alreadyInit
deriving DecidableEq, Repr

/-- ACC_KIND (R49): 0 a read access, 1 a write access. -/
inductive AccKind where
  | read
  | write
deriving DecidableEq, Repr

/-- STAGE (R49), READ_TEMP only: 0 the configuration access, 1 the temperature access. -/
inductive Stage where
  | config
  | temp
deriving DecidableEq, Repr

/-- The command latches (R48), written only at the acceptance of a command. -/
structure Latches where
  op : BitVec 4
  reg : Bool
  en : Bool
  addr : BusAddr
  val : Byte
  off : Word
deriving DecidableEq, Repr

/-- The working registers of the sequencer (R49). -/
structure Working where
  accKind : AccKind
  accCmdb : Byte
  accData : Byte
  stage : Stage
  accOk : Bool
  accFail : Bool
  rxb : Byte
deriving DecidableEq, Repr

/-- A symbol of the bus traffic, in the notation of R13. -/
inductive Wire where
  /-- `S`, START. -/
  | start
  /-- `Sr`, repeated START. -/
  | restart
  /-- `P`, STOP. -/
  | stop
  /-- `A`, acknowledge. -/
  | ack
  /-- `N`, not-acknowledge. -/
  | nack
  /-- A byte on the wire, the address byte or a data byte. -/
  | byte (b : Byte)
  /-- `Q`, a quiescence interval. -/
  | quiet
deriving DecidableEq, Repr

/-- What the environment does in one transaction (R32, R130): a free draw. Byte 0 is the address byte.
`data` is what the target sends if the transaction reads a byte. `nackAt` is the first byte it owes an acknowledgement
for and does not give it (R123, R125). `brokenAt` is the position at which the environment fails the transaction for
another cause ("bus contention, etc.", "at any point", R122, R126): the number of a byte, or the number of bytes, which
fails it after its last byte and before STOP. A greater position is never reached. `canStop` says whether the controller
can then drive STOP. What the trace shows of a broken transaction is the model's choice (DESIGN CHOICE, log 5). -/
structure BusDraw where
  data : Byte
  nackAt : Option Nat
  brokenAt : Option Nat
  canStop : Bool
deriving DecidableEq, Repr

/-- A transaction's outcome (R121): a write's byte count, a read's bytes, or `Fail`, which carries nothing. -/
inductive TxOutcome where
  | count (n : Nat)
  | bytes (l : List Byte)
  | fail
deriving DecidableEq, Repr

/-- What a finished transaction leaves: its outcome, BUS_HELD after it, and its traffic. -/
structure TxResult where
  outcome : TxOutcome
  held : Bool
  wire : List Wire
deriving DecidableEq, Repr

/-- A transaction the sequencer issues (R120): BusWrite of R122 or BusRead of R124. -/
inductive Tx where
  | write (a : BusAddr) (bytes : List Byte) (stop : Bool)
  | read (a : BusAddr) (n : Fin 2) (stop : Bool)
deriving DecidableEq, Repr

/-- The reference target of R220: environment, not controller. -/
structure Target where
  present : Bool
  shdn : Bool
  dataRdy : Bool
  temp : Byte
  ptr : TargetReg
deriving DecidableEq, Repr

/-- The width of a host access. The host port carries only whole words (R77). -/
inductive AccessSize where
  | byte
  | half
  | word
deriving DecidableEq, Repr

/-- A host access at a byte offset of the window (R71). -/
inductive HostAccess where
  | read (size : AccessSize) (off : HostOff)
  | write (size : AccessSize) (off : HostOff) (v : Word)
deriving DecidableEq, Repr

/-- One step of one agent (R30, R85), or one clock cycle with several (R92). The order of a run's inputs is free. -/
inductive Input where
  /-- The host takes a step (R31). -/
  | host (a : HostAccess)
  /-- The sequencer takes a step (R146), with the environment's answer to the running transaction if it has one. -/
  | seq (d : Option BusDraw)
  /-- The sequencer takes a step and the reference target (R220 to R224) is the environment. -/
  | seqRef
  /-- One clock cycle with the reset level, a host access and a sequencer step in it (R92, R240). -/
  | cycle (rst : Bool) (a : Option HostAccess) (d : Option BusDraw)
  /-- `rst_n` is driven: `true` asserts reset, `false` releases it (R240). -/
  | rst (asserted : Bool)
  /-- The reference target at an address completes a conversion (R225). -/
  | convert (a : BusAddr) (t : Byte)
  /-- A reference target powers up at an address with any temperature byte (R226). -/
  | powerUp (a : BusAddr) (t : Byte)
deriving DecidableEq, Repr

/-- The machine's state: every piece of state of 10_state.md, and after it the model's own fields (INVENTORY.md).
STATUS.BUSY, STATUS.STATE and the SCL and SDA outputs are views of these (Flags.lean). -/
structure State where
  /-- CMD (R35). -/
  cmd : Word
  /-- STATUS.DONE (R38). -/
  done : Bool
  /-- STATUS.INIT (R39). -/
  initDone : Bool
  /-- STATUS.REJECTED (R40). -/
  rejected : Bool
  /-- STATUS.CODE (R41). -/
  code : Code
  /-- STATUS.SUBOP (R42). -/
  subop : Bool
  /-- OFFSET (R45). -/
  offset : Word
  /-- RESULT (R46). -/
  result : Word
  /-- The command latches (R48). -/
  latch : Latches
  /-- The working registers (R49). -/
  work : Working
  /-- SEQ (R50). -/
  seq : Seq
  /-- BUSCFG.CLK (R51): unset, or the rate in Hz. "Unset" is the spec's own value. -/
  busClk : Option Nat
  /-- BUSCFG.PULLUP (R51). -/
  busPullup : Bool
  /-- BUS_HELD (R52). -/
  busHeld : Bool
  /-- QCNT (R53). -/
  qcnt : Nat
  /-- The level of the reset input: `true` while `rst_n` is asserted (R240). -/
  inReset : Bool
  /-- The parameters of R7 (the model's own field, log 2). -/
  params : Params
  /-- The reference targets on the bus by address, addresses strictly rising (R220, log 14). -/
  targets : List (BusAddr × Target)
  /-- The agents' coming steps (the model's own field, log 1). -/
  inputs : List Input
  /-- The value the last host read returned (the model's own field, log 7). -/
  hostRdata : Word
  /-- The bus traffic so far (the model's own field, log 6). -/
  wire : List Wire
deriving DecidableEq, Repr

/-- Why a step stops with a fault. The spec has no fault (R200): each of these stands where the spec's own text gives a
step no meaning, and no coherent state reaches one (log 8). All are safe. -/
inductive Fault where
  /-- A write transaction in a state that breaks the `require` line of R122. Raised by the WR_TX step. Safe: no state of
  a run from reset breaks it (R132). -/
  | busWriteRequire
  /-- A read transaction in a state that breaks the `require` line of R124. Raised by the PROBE_RD and RD_TX steps. Safe:
  no state of a run from reset breaks it (R132). -/
  | busReadRequire
  /-- QUIESCE ends with an L_OP that R148 has no case for. Raised by the QUIESCE step. Safe: "INIT never reaches
  QUIESCE" (R148), and no other such value is latched by a command that runs. -/
  | noPostAccess
deriving DecidableEq, Repr

/-- Why a step has no meaning at all. -/
inductive Refusal where
  /-- An instruction whose arm gives it no meaning yet. Raised by exec's arms only. Safe. -/
  | notModelled (mnemonic : String)
  /-- A host access that is not a whole aligned 32-bit word: "a model refuses such an access" (R77). Raised by the host
  step. Safe. -/
  | hostAccessNotWord
  /-- A host access while reset is asserted: "a host access then is refused" (R240). Raised by the host step. Safe. -/
  | hostAccessInReset
deriving DecidableEq, Repr

/-- The latches' reset values (R48, R59). -/
def Latches.reset : Latches where
  op := 0#4
  reg := false
  en := false
  addr := 0#7
  val := 0#8
  off := 0#32

/-- The working registers' reset values (R49, R59). -/
def Working.reset : Working where
  accKind := .read
  accCmdb := 0#8
  accData := 0#8
  stage := .config
  accOk := false
  accFail := false
  rxb := 0#8

/-- The machine right after reset (R59, R241). The spec fixes every controller value; the model's own fields have the
values of logs 1, 2, 6, 7 and 14. -/
def State.reset : State where
  cmd := 0#32
  done := false
  initDone := false
  rejected := false
  code := .ok
  subop := false
  offset := 0#32
  result := 0#32
  latch := Latches.reset
  work := Working.reset
  seq := .idle
  busClk := none
  busPullup := false
  busHeld := false
  qcnt := 0
  inReset := false
  params := Params.default
  targets := []
  inputs := []
  hostRdata := 0#32
  wire := []

end Sys2Proof.Machine
end

