-- ==== Sys2Proof/Machine/Operands.lean ====
section
/-! DEFINITION. Operand forms: how a latched field becomes a command byte, a data byte or a number (R10, R74, R104, R173). -/

namespace Sys2Proof.Machine

/-- `s8(b)` (R10): the byte read as two's complement. -/
def s8 (b : Byte) : Int := b.toInt

/-- `s32(x)` (R10): the word read as two's complement. -/
def s32 (x : Word) : Int := x.toInt

/-- `wrap32(i)` (R10): the pattern congruent to `i` modulo 2^32. -/
def wrap32 (i : Int) : Word := BitVec.ofInt 32 i

/-- `zext_32(b)` (R10) of a byte. -/
def zext32 (b : Byte) : Word := b.setWidth 32

/-- The temperature sum of R173: exact, then wrapped, with no saturation. -/
def tempSum (t : Byte) (off : Word) : Word := wrap32 (s8 t + s32 off)

/-- `CmdByte(reg)` (R74). -/
def cmdByte (p : Params) : TargetReg → Byte
  | .temp => p.cmdTemp
  | .config => p.cmdConfig

/-- The configuration byte of SET_STANDBY: `{EN, 0000000}` (R104, R174). -/
def standbyByte (en : Bool) : Byte := bit1 en ++ 0#7

/-- The data-ready bit of a configuration byte, bit 6 (R54, R150). -/
def dataReady (cfg : Byte) : Bool := cfg.getLsbD 6

/-- The address byte `{a[6:0], rw}` with `rw` = 0 for a write and 1 for a read (R13, R76). -/
def addrByte (a : BusAddr) (rw : Bool) : Byte := a ++ bit1 rw

/-- Membership in `P_LEGAL_ADDRS` (R73). -/
def admissible (p : Params) (a : BusAddr) : Bool := p.legalAddrs.contains a

/-- The latches that acceptance of `w` writes (R48, R142). -/
def latchesOf (w offset : Word) : Latches where
  op := fieldOp w
  reg := fieldReg w
  en := fieldEn w
  addr := fieldAddr w
  val := fieldValue w
  off := offset

end Sys2Proof.Machine
end

