-- ==== Sys2Proof/Machine/Flags.lean ====
section
/-! DEFINITION. STATUS (R36 to R44): its codes, its read value and its write-1-to-clear bits, and the views BUSY, STATE
and the bus lines. -/

namespace Sys2Proof.Machine

/-- The STATUS.STATE code of a sequencer state (R50). -/
def seqBits : Seq → BitVec 4
  | .idle => 0#4
  | .cfg => 1#4
  | .probeRd => 2#4
  | .wrTx => 3#4
  | .rdTx => 4#4
  | .quiesce => 5#4
  | .check => 6#4

/-- The number of a completion code (R201). -/
def codeBits : Code → BitVec 4
  | .ok => 0#4
  | .failWrite => 1#4
  | .failRead => 2#4
  | .notReady => 3#4
  | .illegalCmd => 4#4
  | .illegalAddr => 5#4
  | .notInit => 6#4
  | .alreadyInit => 7#4

/-- STATUS.BUSY: 1 exactly when SEQ ≠ IDLE (R37). -/
def State.busy (s : State) : Bool := s.seq != .idle

/-- STATUS as a host reads it (R36, R78): STATE in bits 15:12, SUBOP bit 8, CODE bits 7:4, REJECTED, INIT, DONE, BUSY in
bits 3 to 0, every other bit 0. -/
def State.statusWord (s : State) : Word :=
  0#16 ++ seqBits s.seq ++ 0#3 ++ bit1 s.subop ++ codeBits s.code ++ bit1 s.rejected ++ bit1 s.initDone ++
    bit1 s.done ++ bit1 s.busy

/-- A host write of `v` to STATUS (R79): bit 1 clears DONE, bit 3 clears REJECTED, every other bit is ignored. -/
def State.clearStatus (v : Word) (s : State) : State :=
  { s with
    done := s.done && !v.getLsbD 1
    rejected := s.rejected && !v.getLsbD 3 }

/-- SEQ is one of the states in which a transaction runs (R120, R154). -/
def Seq.inTransaction : Seq → Bool
  | .probeRd => true
  | .wrTx => true
  | .rdTx => true
  | .idle => false
  | .cfg => false
  | .quiesce => false
  | .check => false

/-- The controller drives neither SCL nor SDA low (R51, R133): no transaction runs and the bus is not held. -/
def State.linesReleased (s : State) : Bool := !s.seq.inTransaction && !s.busHeld

/-- BUSCFG has been set (R51). -/
def State.busConfigured (s : State) : Bool := s.busClk.isSome && s.busPullup

end Sys2Proof.Machine
end

