-- ==== Sys2Proof/Machine/Bus.lean ====
section
/-! DEFINITION. The bus transaction engine (40_bus_transport.md): BusWrite (R122), BusRead (R124) and their traffic, for
any draw of the environment (R130). -/

namespace Sys2Proof.Machine

/-- The STOP after a failure that is no missing acknowledgement: "the controller drives STOP if it can" (R126). -/
def stopIfAble (d : BusDraw) : List Wire := if d.canStop then [.stop] else []

/-- Send bytes in order, the first being byte number `k` of the transaction (R122): each is driven, and must be
acknowledged. A byte that is not acknowledged ends the transaction with STOP. `true` when every byte was acknowledged.
Broken at byte `k` for another cause (R126), the trace shows that byte whole, without an acknowledge bit; broken after the
last byte, it shows every byte acknowledged (DESIGN CHOICE, log 5). -/
def sendBytes (d : BusDraw) : Nat → List Byte → List Wire × Bool
  | k, [] => if d.brokenAt = some k then (stopIfAble d, false) else ([], true)
  | k, b :: rest =>
    if d.brokenAt = some k then (.byte b :: stopIfAble d, false)
    else if d.nackAt = some k then ([.byte b, .nack, .stop], false)
    else
      let r := sendBytes d (k + 1) rest
      (.byte b :: .ack :: r.1, r.2)

/-- The STOP of a successful transaction issued with `stop` (R122, R124). -/
def stopWhen (stop : Bool) : List Wire := if stop then [.stop] else []

/-- BusWrite(a, bytes, stop) (R122) under a draw. After `Fail` the bus is released, whatever `stop` was (R126). -/
def busWrite (a : BusAddr) (bytes : List Byte) (stop : Bool) (d : BusDraw) : TxResult :=
  let r := sendBytes d 0 (addrByte a false :: bytes)
  if r.2 then
    { outcome := .count bytes.length
      held := !stop
      wire := .start :: (r.1 ++ stopWhen stop) }
  else
    { outcome := .fail, held := false, wire := .start :: r.1 }

/-- The START of a read: a repeated START when the bus is held (R124). -/
def readStart (held : Bool) : Wire := if held then .restart else .start

/-- BusRead(a, n, stop) (R124) under a draw, n being 0 or 1. The master answers the last byte with NACK, and a target
cannot refuse a data byte (R125). What the trace shows of a read that fails for another cause (R126) is a DESIGN CHOICE
(log 5): broken at position 0, the address byte whole and no acknowledge bit; at position 1, the acknowledged address byte
and nothing of a data byte; at position 2, which only a 1-byte read reaches, the data byte whole and no NACK. -/
def busRead (a : BusAddr) (n : Fin 2) (stop held : Bool) (d : BusDraw) : TxResult :=
  let failed (w : List Wire) : TxResult :=
    { outcome := .fail, held := false, wire := readStart held :: .byte (addrByte a true) :: w }
  if d.brokenAt = some 0 then failed (stopIfAble d)
  else if d.nackAt = some 0 then failed [.nack, .stop]
  else if d.brokenAt = some 1 then failed (.ack :: stopIfAble d)
  else if n = 0 then
    { outcome := .bytes []
      held := false
      wire := readStart held :: .byte (addrByte a true) :: .ack :: stopWhen stop }
  else if d.brokenAt = some 2 then failed (.ack :: .byte d.data :: stopIfAble d)
  else
    { outcome := .bytes [d.data]
      held := false
      wire := readStart held :: .byte (addrByte a true) :: .ack :: .byte d.data :: .nack :: stopWhen stop }

/-- The transaction the sequencer runs in this state (R81, R146): PROBE's read, a register access's write, or a read
access's read; none outside the transaction states (R154). -/
def State.runningTx (s : State) : Option Tx :=
  match s.seq with
  | .probeRd => some (.read s.latch.addr s.params.probeLen true)
  | .wrTx =>
    match s.work.accKind with
    | .read => some (.write s.latch.addr [s.work.accCmdb] false)
    | .write => some (.write s.latch.addr [s.work.accCmdb, s.work.accData] true)
  | .rdTx => some (.read s.latch.addr 1 true)
  | .idle => none
  | .cfg => none
  | .quiesce => none
  | .check => none

/-- What a transaction leaves under a draw, when the bus is held before it or not (R122, R124). -/
def Tx.run (held : Bool) (d : BusDraw) : Tx → TxResult
  | .write a bytes stop => busWrite a bytes stop d
  | .read a n stop => busRead a n stop held d

/-- The number of bytes on the wire, address bytes included. -/
def wireBytes : List Wire → Nat
  | [] => 0
  | .byte _ :: rest => wireBytes rest + 1
  | .start :: rest => wireBytes rest
  | .restart :: rest => wireBytes rest
  | .stop :: rest => wireBytes rest
  | .ack :: rest => wireBytes rest
  | .nack :: rest => wireBytes rest
  | .quiet :: rest => wireBytes rest

/-- SCL clocks of a traffic: 9 for each byte with its acknowledge bit (R256). No rule rests on it. -/
def sclClocks (w : List Wire) : Nat := 9 * wireBytes w

end Sys2Proof.Machine
end

