-- ==== Sys2Proof/Machine/Ops.lean ====
section
/-! DEFINITION. The operations every command shares (41_sequencer.md): acceptance, rejection, the acceptance checks,
starting a register access, and `Complete`, which is all this machine has of taking an exception (R208) and leaves
nothing to return from (R209). -/

namespace Sys2Proof.Machine

/-- Reject() (R141). -/
def State.reject (s : State) : State := { s with rejected := true }

/-- Accept(w) (R142): CMD and the latches are written, DONE is cleared, nothing else changes. -/
def State.accept (w : Word) (s : State) : State :=
  { s with
    cmd := w
    done := false
    latch := latchesOf w s.offset }

/-- Complete(code, result, subop) (R147): the only writer of RESULT, CODE and SUBOP. A code other than OK is the analogue
of a trap (R208). -/
def State.complete (code : Code) (result : Word) (subop : Bool) (s : State) : State :=
  { s with
    result := result
    code := code
    subop := subop
    done := true
    seq := .idle }

/-- FailVal(op) (R144): the RESULT of a command that fails. -/
def failVal : Opcode → Word
  | .init => 0#32
  | .probe => 0#32
  | .readConfig => cfgSentinel
  | .readTemp => tempSentinel
  | .setStandby => 0#32
  | .readReg => 0#32
  | .writeReg => 0#32

/-- FailCode() (R149). -/
def State.failCode (s : State) : Code := if s.work.accFail then .failRead else .failWrite

/-- StartRead(c) (R145). -/
def State.startRead (c : Byte) (s : State) : State :=
  { s with
    work := { s.work with accKind := .read, accCmdb := c }
    seq := .wrTx }

/-- StartWrite(c, d) (R145). -/
def State.startWrite (c d : Byte) (s : State) : State :=
  { s with
    work := { s.work with accKind := .write, accCmdb := c, accData := d }
    seq := .wrTx }

/-- Writing STAGE (R145, R150). -/
def State.setStage (g : Stage) (s : State) : State := { s with work := { s.work with stage := g } }

/-- CmdWrite(w) (R140): while a command runs the write is rejected; else `w` is accepted and `body` (the checks and the
dispatch of R143) runs in the same step. -/
def issue (w : Word) (body : State → State) (s : State) : State :=
  if s.busy then s.reject else body (s.accept w)

/-- The checks of R143 for a legal command other than INIT, in their order, and then its dispatch. `s` is the state as
accepted, so L_ADDR is the word's ADDR. -/
def checkedDispatch (op : Opcode) (dispatch : State → State) (s : State) : State :=
  if !s.initDone then s.complete .notInit (failVal op) false
  else if !admissible s.params s.latch.addr then s.complete .illegalAddr (failVal op) false
  else dispatch s

/-- Acceptance of a word that is no command (R106, R143). -/
def execIllegal (w : Word) (s : State) : State := issue w (State.complete .illegalCmd 0#32 false) s

/-- Entering QUIESCE (R127, R131): QCNT is loaded with `P_Q_CYCLES`. -/
def State.enterQuiesce (s : State) : State := { s with seq := .quiesce, qcnt := s.params.qCycles }

/-- The bus after a transaction: BUS_HELD as it left it, and its traffic appended. -/
def State.afterTx (r : TxResult) (s : State) : State :=
  { s with busHeld := r.held, wire := s.wire ++ r.wire }

/-- ACC_OK and ACC_FAIL as a step records them (R49, R146). -/
def State.recordAccess (ok fail : Bool) (s : State) : State :=
  { s with work := { s.work with accOk := ok, accFail := fail } }

/-- A byte received (R146, RD_TX): RXB takes it and ACC_OK is 1. -/
def State.recordByte (b : Byte) (s : State) : State :=
  { s with work := { s.work with rxb := b, accOk := true } }

/-- A finished quiescence interval in the traffic. -/
def State.logQuiet (s : State) : State := { s with wire := s.wire ++ [.quiet] }

/-- Reset (R241): every piece of controller state takes its reset value (R59). The environment's part and the model's own
fields stay (log 13). -/
def State.resetController (s : State) : State :=
  { State.reset with
    inReset := s.inReset
    params := s.params
    targets := s.targets
    inputs := s.inputs
    hostRdata := s.hostRdata
    wire := s.wire }

end Sys2Proof.Machine
end

