-- ==== Sys2Proof/Machine/Init.lean ====
section
/-! DEFINITION. INIT (44_init.md): its acceptance and its CFG step. -/

namespace Sys2Proof.Machine

/-- Dispatch of INIT (R143, R145, R190): ALREADY_INIT after the first one, else the CFG state. INIT is never refused for
NOT_INIT or ILLEGAL_ADDR. -/
def dispatchInit (s : State) : State :=
  if s.initDone then s.complete .alreadyInit 0#32 false else { s with seq := .cfg }

/-- INIT, the accepting step (R140, R190). -/
def execInit (s : State) : Host.Outcome State Fault Refusal :=
  .next (issue (encode .init) dispatchInit s)

/-- What INIT configures (R190, R191): the bus clock, the pull-ups, and STATUS.INIT. -/
def State.configureBus (s : State) : State :=
  { s with
    busClk := some s.params.sclHz
    busPullup := true
    initDone := true }

/-- INIT's CFG step (R146, R190): no transaction and no quiescence interval. -/
def finishInit (s : State) : State := s.configureBus.complete .ok 0#32 false

end Sys2Proof.Machine
end

