-- ==== Sys2Proof/Machine/RegisterProtocol.lean ====
section
/-! DEFINITION. READ_REG and WRITE_REG (42_register_protocol.md): the accepting step of each, and its end after the
register access. -/

namespace Sys2Proof.Machine

/-- Dispatch of READ_REG (R145): a read access of the register L_REG names. -/
def dispatchReadReg (s : State) : State := s.startRead (cmdByte s.params (regOfBit s.latch.reg))

/-- READ_REG, the accepting step (R140, R162). -/
def execReadReg (a : BusAddr) (r : TargetReg) (s : State) : Host.Outcome State Fault Refusal :=
  .next (issue (encode (.readReg a r)) (checkedDispatch .readReg dispatchReadReg) s)

/-- The end of READ_REG (R148, R162): the byte zero-extended, or the failure code with RESULT 0. -/
def finishReadReg (s : State) : State :=
  if s.work.accOk then s.complete .ok (zext32 s.work.rxb) false
  else s.complete s.failCode (failVal .readReg) false

/-- Dispatch of WRITE_REG (R145): a write access of L_VAL to the register L_REG names. -/
def dispatchWriteReg (s : State) : State :=
  s.startWrite (cmdByte s.params (regOfBit s.latch.reg)) s.latch.val

/-- WRITE_REG, the accepting step (R140, R163). -/
def execWriteReg (a : BusAddr) (r : TargetReg) (v : Byte) (s : State) : Host.Outcome State Fault Refusal :=
  .next (issue (encode (.writeReg a r v)) (checkedDispatch .writeReg dispatchWriteReg) s)

/-- The end of WRITE_REG (R148, R163): RESULT is 0 either way. -/
def finishWriteReg (s : State) : State :=
  if s.work.accOk then s.complete .ok 0#32 false
  else s.complete .failWrite (failVal .writeReg) false

end Sys2Proof.Machine
end

