-- ==== Sys2Proof/Machine/SensorOps.lean ====
section
/-! DEFINITION. PROBE, READ_CONFIG, READ_TEMP and SET_STANDBY (43_sensor_ops.md): the accepting step of each, and its end
after its bus accesses. -/

namespace Sys2Proof.Machine

/-- Dispatch of PROBE (R145): the read transaction, with no command byte first (R170). -/
def dispatchProbe (s : State) : State := { s with seq := .probeRd }

/-- PROBE, the accepting step (R140, R170). -/
def execProbe (a : BusAddr) (s : State) : Host.Outcome State Fault Refusal :=
  .next (issue (encode (.probe a)) (checkedDispatch .probe dispatchProbe) s)

/-- The end of PROBE (R148, R170): OK in both outcomes, RESULT 1 for present and 0 for absent. -/
def finishProbe (s : State) : State := s.complete .ok (if s.work.accOk then 1#32 else 0#32) false

/-- Dispatch of READ_CONFIG (R145). -/
def dispatchReadConfig (s : State) : State := s.startRead (cmdByte s.params .config)

/-- READ_CONFIG, the accepting step (R140, R171). -/
def execReadConfig (a : BusAddr) (s : State) : Host.Outcome State Fault Refusal :=
  .next (issue (encode (.readConfig a)) (checkedDispatch .readConfig dispatchReadConfig) s)

/-- The end of READ_CONFIG (R148, R171): the byte unmasked and zero-extended, or 255 with the failure code. -/
def finishReadConfig (s : State) : State :=
  if s.work.accOk then s.complete .ok (zext32 s.work.rxb) false
  else s.complete s.failCode (failVal .readConfig) false

/-- Dispatch of READ_TEMP (R145): the configuration access first. -/
def dispatchReadTemp (s : State) : State := (s.setStage .config).startRead (cmdByte s.params .config)

/-- READ_TEMP, the accepting step (R140, R172). -/
def execReadTemp (a : BusAddr) (s : State) : Host.Outcome State Fault Refusal :=
  .next (issue (encode (.readTemp a)) (checkedDispatch .readTemp dispatchReadTemp) s)

/-- READ_TEMP after an access (R148, R172): after the configuration access the CHECK state or 404 with SUBOP 0, after the
temperature access the sum of R173 or 404 with SUBOP 1. -/
def finishReadTemp (s : State) : State :=
  match s.work.stage with
  | .config =>
    if s.work.accOk then { s with seq := .check }
    else s.complete s.failCode (failVal .readTemp) false
  | .temp =>
    if s.work.accOk then s.complete .ok (tempSum s.work.rxb s.latch.off) true
    else s.complete s.failCode (failVal .readTemp) true

/-- CHECK (R150): not ready ends READ_TEMP with no further transaction; ready starts the temperature access. Only bit 6
of the configuration byte is examined. -/
def checkReady (s : State) : State :=
  if dataReady s.work.rxb then (s.setStage .temp).startRead (cmdByte s.params .temp)
  else s.complete .notReady (failVal .readTemp) false

/-- Dispatch of SET_STANDBY (R145): a write access of `{L_EN, 0000000}` to the configuration register. -/
def dispatchSetStandby (s : State) : State :=
  s.startWrite (cmdByte s.params .config) (standbyByte s.latch.en)

/-- SET_STANDBY, the accepting step (R140, R174). -/
def execSetStandby (a : BusAddr) (en : Bool) (s : State) : Host.Outcome State Fault Refusal :=
  .next (issue (encode (.setStandby a en)) (checkedDispatch .setStandby dispatchSetStandby) s)

/-- The end of SET_STANDBY (R148, R174). -/
def finishSetStandby (s : State) : State :=
  if s.work.accOk then s.complete .ok 0#32 false
  else s.complete .failWrite (failVal .setStandby) false

end Sys2Proof.Machine
end

