-- ==== Sys2Proof/Machine/Dispatch.lean ====
section
/-! DEFINITION. What a host's CMD write of each command does (R140 to R145): one arm per constructor. -/

namespace Sys2Proof.Machine

def exec (i : Instr) (s : State) : Host.Outcome State Fault Refusal :=
  match i with
  | .init => Sys2Proof.Machine.execInit s
  | .probe addr => Sys2Proof.Machine.execProbe addr s
  | .readConfig addr => Sys2Proof.Machine.execReadConfig addr s
  | .readTemp addr => Sys2Proof.Machine.execReadTemp addr s
  | .setStandby addr en => Sys2Proof.Machine.execSetStandby addr en s
  | .readReg addr reg => Sys2Proof.Machine.execReadReg addr reg s
  | .writeReg addr reg value => Sys2Proof.Machine.execWriteReg addr reg value s

end Sys2Proof.Machine
end

