-- ==== Sys2Proof/Machine/Sequencer.lean ====
section
/-! DEFINITION. The sequencer's next-state function (R146 to R150). One sequencer step is one row of R146; in QUIESCE it
is one clock cycle of QCNT (R127). -/

namespace Sys2Proof.Machine

/-- PROBE_RD ends with a draw (R146). -/
def probeRdStep (d : BusDraw) (s : State) : Host.Outcome State Fault Refusal :=
  if s.busConfigured then
    let r := busRead s.latch.addr s.params.probeLen true s.busHeld d
    .next ((s.afterTx r).recordAccess (r.outcome != .fail) (r.outcome == .fail)).enterQuiesce
  else .fault .busReadRequire

/-- WR_TX of a read access ends with a draw (R146): the held command byte, then RD_TX, or QUIESCE with the failure. -/
def heldWriteStep (d : BusDraw) (s : State) : Host.Outcome State Fault Refusal :=
  if s.busConfigured && !s.busHeld then
    let r := busWrite s.latch.addr [s.work.accCmdb] false d
    if r.outcome = .count 1 then .next { s.afterTx r with seq := .rdTx }
    else .next ((s.afterTx r).recordAccess false false).enterQuiesce
  else .fault .busWriteRequire

/-- WR_TX of a write access ends with a draw (R146). -/
def wholeWriteStep (d : BusDraw) (s : State) : Host.Outcome State Fault Refusal :=
  if s.busConfigured && !s.busHeld then
    let r := busWrite s.latch.addr [s.work.accCmdb, s.work.accData] true d
    .next ((s.afterTx r).recordAccess (r.outcome == .count 2) false).enterQuiesce
  else .fault .busWriteRequire

/-- RD_TX ends with a draw (R146): RXB takes the byte, and keeps its value when the read fails (R49). -/
def rdTxStep (d : BusDraw) (s : State) : Host.Outcome State Fault Refusal :=
  if s.busConfigured then
    let r := busRead s.latch.addr 1 true s.busHeld d
    match r.outcome with
    | .bytes [b] => .next ((s.afterTx r).recordByte b).enterQuiesce
    | .bytes _ => .next ((s.afterTx r).recordAccess false true).enterQuiesce
    | .count _ => .next ((s.afterTx r).recordAccess false true).enterQuiesce
    | .fail => .next ((s.afterTx r).recordAccess false true).enterQuiesce
  else .fault .busReadRequire

/-- WR_TX ends with a draw (R146), by the kind of the access. -/
def wrTxStep (d : BusDraw) (s : State) : Host.Outcome State Fault Refusal :=
  match s.work.accKind with
  | .read => heldWriteStep d s
  | .write => wholeWriteStep d s

/-- A transaction state's row (R146): it is enabled only when the environment has an outcome. Without one the
transaction still runs and the state stays (R128). -/
def whenAnswered (d : Option BusDraw) (row : BusDraw → State → Host.Outcome State Fault Refusal) (s : State) :
    Host.Outcome State Fault Refusal :=
  match d with
  | some x => row x s
  | none => .next s

/-- PostAccess() (R148), by L_OP. -/
def postAccess (s : State) : Host.Outcome State Fault Refusal :=
  match opOfBits s.latch.op with
  | some .probe => .next (finishProbe s)
  | some .readReg => .next (finishReadReg s)
  | some .writeReg => .next (finishWriteReg s)
  | some .setStandby => .next (finishSetStandby s)
  | some .readConfig => .next (finishReadConfig s)
  | some .readTemp => .next (finishReadTemp s)
  | some .init => .fault .noPostAccess
  | none => .fault .noPostAccess

/-- QUIESCE (R127, R146): one clock cycle while QCNT > 0, and PostAccess when it is 0. -/
def quiesceStep (s : State) : Host.Outcome State Fault Refusal :=
  if s.qcnt = 0 then postAccess s.logQuiet else .next { s with qcnt := s.qcnt - 1 }

/-- One sequencer step (R146), with the environment's answer if it has one. A state without a transaction does not use
the answer. -/
def seqStep (d : Option BusDraw) (s : State) : Host.Outcome State Fault Refusal :=
  match s.seq with
  | .idle => .next s
  | .cfg => .next (finishInit s)
  | .probeRd => whenAnswered d probeRdStep s
  | .wrTx => whenAnswered d wrTxStep s
  | .rdTx => whenAnswered d rdTxStep s
  | .quiesce => quiesceStep s
  | .check => .next (checkReady s)

end Sys2Proof.Machine
end

