-- ==== Sys2Proof/Machine/Target.lean ====
section
/-! DEFINITION. The reference target of R220 to R227: an environment, not a part of the controller (R56). It answers a
transaction with one draw of R130, and keeps its own registers. -/

namespace Sys2Proof.Machine

/-- The target listed at an address; an address no entry lists holds no target (R221). -/
def targetAt : List (BusAddr × Target) → BusAddr → Option Target
  | [], _ => none
  | (b, t) :: rest, a => if b = a then some t else targetAt rest a

/-- The list with `t` at address `a`, addresses kept strictly rising. -/
def putTarget : List (BusAddr × Target) → BusAddr → Target → List (BusAddr × Target)
  | [], a, t => [(a, t)]
  | (b, u) :: rest, a, t =>
    if a.toNat < b.toNat then (a, t) :: (b, u) :: rest
    else if b = a then (a, t) :: rest
    else (b, u) :: putTarget rest a t

/-- The canonical form of the target list: addresses strictly rising. -/
def targetsRising : List (BusAddr × Target) → Bool
  | [] => true
  | [_] => true
  | (a, _) :: (b, u) :: rest => decide (a.toNat < b.toNat) && targetsRising ((b, u) :: rest)

/-- The configuration byte as read, `{SHDN, DATA_RDY, 000000}` (R220); while SHDN = 1, DATA_RDY reads 0 (R224). -/
def Target.configByte (t : Target) : Byte := bit1 t.shdn ++ bit1 (t.dataRdy && !t.shdn) ++ 0#6

/-- The byte a 1-byte read returns (R222). -/
def Target.readByte (t : Target) : Byte :=
  match t.ptr with
  | .temp => t.temp
  | .config => t.configByte

/-- The register a command byte selects on the reference target (R222). -/
def regOfCmd (p : Params) (c : Byte) : Option TargetReg :=
  if c = p.cmdTemp then some .temp else if c = p.cmdConfig then some .config else none

/-- The draw that acknowledges everything and answers a read with `b`. -/
def BusDraw.good (b : Byte) : BusDraw where
  data := b
  nackAt := none
  brokenAt := none
  canStop := true

/-- The draw that leaves byte `k` without acknowledgement. -/
def BusDraw.refuse (k : Nat) : BusDraw where
  data := 0#8
  nackAt := some k
  brokenAt := none
  canStop := true

/-- The reference target's answer to a transaction (R221, R222, R223): no acknowledgement of the address byte where no
target is present; an unknown command byte is not acknowledged. -/
def refDraw (p : Params) (t : Option Target) (x : Tx) : BusDraw :=
  match t with
  | none => .refuse 0
  | some t =>
    if t.present then
      match x with
      | .read _ _ _ => .good t.readByte
      | .write _ [] _ => .good 0#8
      | .write _ (c :: _) _ => if (regOfCmd p c).isSome then .good 0#8 else .refuse 1
    else .refuse 0

/-- What a present reference target keeps of a transaction: PTR (R222), and SHDN and DATA_RDY of a configuration write
(R223). -/
def Target.after (p : Params) (x : Tx) (t : Target) : Target :=
  match x with
  | .read _ _ _ => t
  | .write _ [] _ => t
  | .write _ [c] _ =>
    match regOfCmd p c with
    | none => t
    | some r => { t with ptr := r }
  | .write _ (c :: v :: _) _ =>
    match regOfCmd p c with
    | none => t
    | some .temp => { t with ptr := .temp }
    | some .config =>
      { t with
        ptr := .config
        shdn := v.getLsbD 7
        dataRdy := t.dataRdy && !v.getLsbD 7 }

/-- The address of a transaction. -/
def Tx.addr : Tx → BusAddr
  | .write a _ _ => a
  | .read a _ _ => a

/-- The targets after a transaction: the present target it names has seen it. -/
def targetsAfter (p : Params) (x : Tx) (l : List (BusAddr × Target)) : List (BusAddr × Target) :=
  match targetAt l x.addr with
  | none => l
  | some t => if t.present then putTarget l x.addr (t.after p x) else l

/-- A sequencer step with the reference target as the environment (R130): the target fixes the draw. -/
def refStep (s : State) : Host.Outcome State Fault Refusal :=
  match s.runningTx with
  | none => seqStep none s
  | some x =>
    seqStep (some (refDraw s.params (targetAt s.targets x.addr) x))
      { s with targets := targetsAfter s.params x s.targets }

/-- The convert step (R225): enabled when the target is present and not in standby; TEMP takes any byte and DATA_RDY is
set. -/
def Target.convert (b : Byte) (t : Target) : Target :=
  if t.present && !t.shdn then { t with temp := b, dataRdy := true } else t

/-- The convert step at an address; nothing happens where no target is listed. -/
def State.convertAt (a : BusAddr) (b : Byte) (s : State) : State :=
  match targetAt s.targets a with
  | none => s
  | some t => { s with targets := putTarget s.targets a (t.convert b) }

/-- The power-up state of a reference target (R226), with any temperature byte. -/
def Target.powerUp (b : Byte) : Target where
  present := true
  shdn := false
  dataRdy := false
  temp := b
  ptr := .temp

/-- A reference target powers up at an address (R226). -/
def State.powerUpAt (a : BusAddr) (b : Byte) (s : State) : State :=
  { s with targets := putTarget s.targets a (Target.powerUp b) }

end Sys2Proof.Machine
end

