-- ==== Sys2Proof/Machine/HostPort.lean ====
section
/-! DEFINITION. The host register port (20_memory.md): the address decoder (R72), HostRead (R78), HostWrite (R79), the CMD
write (R140), the reset input (R240, R241), and what each input of the machine does. -/

namespace Sys2Proof.Machine

/-- What an aligned word offset selects (R72). -/
inductive HostReg where
  | cmd | status | offset | result | unmapped
deriving DecidableEq, Repr

/-- The host register address decoder (R71, R72): total, on `off[4:2]`. -/
def hostReg (off : HostOff) : HostReg :=
  let n := off.extractLsb' 2 3
  if n = 0#3 then .cmd
  else if n = 1#3 then .status
  else if n = 2#3 then .offset
  else if n = 3#3 then .result
  else .unmapped

/-- The window's place in the host's own address map (R83): the offset an address selects, if it lies in the 32 bytes
from `P_HOST_BASE` on. The platform's decoder does this outside the controller's port (log 17). -/
def windowOffset (addr : Nat) : Option HostOff :=
  if Config.hostBase ≤ addr ∧ addr < Config.hostBase + 32 then some (BitVec.ofNat 5 (addr - Config.hostBase)) else none

/-- A host access has the only shape the port carries: a 32-bit access at a multiple of 4 (R77). -/
def wholeWord (size : AccessSize) (off : HostOff) : Bool := size == .word && off.extractLsb' 0 2 == 0#2

/-- HostRead(off) (R78). -/
def State.hostRead (off : HostOff) (s : State) : Word :=
  match hostReg off with
  | .cmd => s.cmd
  | .status => s.statusWord
  | .offset => s.offset
  | .result => s.result
  | .unmapped => 0#32

/-- CmdWrite(w) (R140): a legal command has its meaning, any other word completes with ILLEGAL_CMD (R106, R143). -/
def cmdWrite (w : Word) (s : State) : Host.Outcome State Fault Refusal :=
  match decode w with
  | .ok i => exec i s
  | .error _ => .next (execIllegal w s)

/-- HostWrite(off, v) (R79). -/
def hostWrite (off : HostOff) (v : Word) (s : State) : Host.Outcome State Fault Refusal :=
  match hostReg off with
  | .cmd => cmdWrite v s
  | .status => .next (s.clearStatus v)
  | .offset => .next { s with offset := v }
  | .result => .next s
  | .unmapped => .next s

/-- One host step (R31, R77, R240): refused while reset is asserted and for any shape but an aligned word. A read leaves
its value on the port and changes nothing else. -/
def hostStep (a : HostAccess) (s : State) : Host.Outcome State Fault Refusal :=
  if s.inReset then .refused .hostAccessInReset
  else
    match a with
    | .read size off =>
      if wholeWord size off then .next { s with hostRdata := s.hostRead off } else .refused .hostAccessNotWord
    | .write size off v =>
      if wholeWord size off then hostWrite off v s else .refused .hostAccessNotWord

/-- A sequencer step as an input (R146): while reset is asserted the controller takes no step (R240). -/
def seqInput (d : Option BusDraw) (s : State) : Host.Outcome State Fault Refusal :=
  if s.inReset then .next s else seqStep d s

/-- The same with the reference target as environment. -/
def refInput (s : State) : Host.Outcome State Fault Refusal :=
  if s.inReset then .next s else refStep s

/-- `rst_n` driven (R240, R241): asserting it resets the controller in this step, releasing it lets the controller run. -/
def State.driveReset (asserted : Bool) (s : State) : State :=
  if asserted then { s.resetController with inReset := true } else { s with inReset := false }

/-- One clock cycle with several agents in it (R92). Reset wins over everything. Else the host access is taken first and
the sequencer's step after it, so that a CMD write sees BUSY = 1 in the cycle of `Complete` and DONE ends at 1; a
sequencer that was idle before the cycle takes no step in it (R11). -/
def cycleInput (rst : Bool) (a : Option HostAccess) (d : Option BusDraw) (s : State) :
    Host.Outcome State Fault Refusal :=
  if rst then .next (s.driveReset true)
  else
    let s₀ := s.driveReset false
    match a with
    | none => seqStep d s₀
    | some acc =>
      match hostStep acc s₀ with
      | .next s₁ => if s.busy then seqStep d s₁ else .next s₁
      | .fault r => .fault r
      | .refused r => .refused r

/-- What one input does (R30, R85). -/
def applyInput (i : Input) (s : State) : Host.Outcome State Fault Refusal :=
  match i with
  | .host a => hostStep a s
  | .seq d => seqInput d s
  | .seqRef => refInput s
  | .cycle rst a d => cycleInput rst a d s
  | .rst asserted => .next (s.driveReset asserted)
  | .convert a b => .next (s.convertAt a b)
  | .powerUp a b => .next (s.powerUpAt a b)

/-- The machine's next step (R85): the first input waiting is taken, and with none waiting the sequencer steps without an
answer of the environment (log 1). -/
def takeInput (s : State) : Host.Outcome State Fault Refusal :=
  match s.inputs with
  | [] => seqInput none s
  | i :: rest => applyInput i { s with inputs := rest }

/-- The host access that issues the word of `nbits` bits: a whole-word write to CMD (R100). -/
def cmdAccess (nbits w : Nat) : HostAccess := .write .word 0#5 (BitVec.ofNat 32 (w % 2 ^ nbits))

end Sys2Proof.Machine
end

