-- ==== Sys2Proof/Machine/Step.lean ====
section
/-! DEFINITION. The step of the machine, and where an instruction is placed for its next step (log 3). -/

namespace Sys2Proof.Machine

/-- One step (R85): the next step of one agent. -/
def step (s : State) : Host.Outcome State Fault Refusal := takeInput s

/-- `s` with the command word waiting as the host's next access: a write to CMD, which is how this machine is given an
instruction (R2, R35, R100), with reset released so that the access is accepted (R240). -/
def State.withFetchWord (s : State) (nbits w : Nat) : State :=
  { s with
    inReset := false
    inputs := .host (cmdAccess nbits w) :: s.inputs }

end Sys2Proof.Machine
end

