-- ==== Sys2Proof/Machine/Assembler.lean ====
section
/-! DEFINITION. The assembler of R109 and the pseudo-instructions of R110: a statement becomes the host's own actions.
They are notation for host programs; the controller sees only the host accesses (D28). -/

namespace Sys2Proof.Machine

/-- One action of a host program. -/
inductive HostOp where
  /-- A host write. -/
  | wr (off : HostOff) (v : Word)
  /-- A host read. -/
  | rd (off : HostOff)
  /-- `WAIT`: the host repeats `RD STATUS` until DONE = 1 (R110). -/
  | waitDone
deriving DecidableEq, Repr

/-- Offset of CMD (R109). -/
def offCmd : HostOff := 0x00#5

/-- Offset of STATUS (R109). -/
def offStatus : HostOff := 0x04#5

/-- Offset of OFFSET (R109). -/
def offOffset : HostOff := 0x08#5

/-- Offset of RESULT (R109). -/
def offResult : HostOff := 0x0C#5

/-- Issue a command. -/
def issueOp (i : Instr) : HostOp := .wr offCmd (encode i)

/-- The REG operand of a statement: TEMP = 0, CONFIG = 1 (R109). -/
def regOfNat (r : Nat) : TargetReg := if r = 1 then .config else .temp

/-- The command a statement issues, for the statements that issue exactly one (R109, R110). -/
def stmtInstr : Stmt → Option Instr
  | .init => some .init
  | .probe a => some (.probe (BitVec.ofNat 7 a))
  | .readConfig a => some (.readConfig (BitVec.ofNat 7 a))
  | .readTemp a => some (.readTemp (BitVec.ofNat 7 a))
  | .setStandby a e => some (.setStandby (BitVec.ofNat 7 a) (e == 1))
  | .readReg a r => some (.readReg (BitVec.ofNat 7 a) (regOfNat r))
  | .writeReg a r v => some (.writeReg (BitVec.ofNat 7 a) (regOfNat r) (BitVec.ofNat 8 v))
  | .standby a => some (.setStandby (BitVec.ofNat 7 a) true)
  | .wake a => some (.setStandby (BitVec.ofNat 7 a) false)
  | .word _ => none
  | .wr _ _ => none
  | .rd _ => none
  | .setOff _ => none
  | .wait => none
  | .run _ => none
  | .readTempOffset _ _ => none
  | .clear => none
  | .scan => none

/-- The admissible addresses in increasing order (R110, SCAN). -/
def legalInOrder (p : Params) : List BusAddr := ((List.range 128).map (BitVec.ofNat 7)).filter (admissible p)

/-- `RUN stmt` (R110) after the statement's own actions. -/
def runTail : List HostOp := [.waitDone, .rd offResult]

/-- The expansion of a statement in range (R109, R110). -/
def expand (p : Params) : Stmt → List HostOp
  | .init => [issueOp .init]
  | .probe a => [issueOp (.probe (BitVec.ofNat 7 a))]
  | .readConfig a => [issueOp (.readConfig (BitVec.ofNat 7 a))]
  | .readTemp a => [issueOp (.readTemp (BitVec.ofNat 7 a))]
  | .setStandby a e => [issueOp (.setStandby (BitVec.ofNat 7 a) (e == 1))]
  | .readReg a r => [issueOp (.readReg (BitVec.ofNat 7 a) (regOfNat r))]
  | .writeReg a r v => [issueOp (.writeReg (BitVec.ofNat 7 a) (regOfNat r) (BitVec.ofNat 8 v))]
  | .word w => [.wr offCmd (BitVec.ofNat 32 w)]
  | .wr off v => [.wr (BitVec.ofNat 5 off) (BitVec.ofNat 32 v)]
  | .rd off => [.rd (BitVec.ofNat 5 off)]
  | .setOff o => [.wr offOffset (wrap32 o)]
  | .standby a => [issueOp (.setStandby (BitVec.ofNat 7 a) true)]
  | .wake a => [issueOp (.setStandby (BitVec.ofNat 7 a) false)]
  | .wait => [.waitDone]
  | .run st => expand p st ++ runTail
  | .readTempOffset a o => [.wr offOffset (wrap32 o), issueOp (.readTemp (BitVec.ofNat 7 a))]
  | .clear => [.wr offStatus 0x0000000A#32]
  | .scan => (legalInOrder p).flatMap fun a => issueOp (.probe a) :: runTail

/-- The assembler (R109): a statement with an operand out of range is refused, not truncated. -/
def assemble (p : Params) (st : Stmt) : Option (List HostOp) :=
  if st.wellFormed then some (expand p st) else none

/-- The host access of an action that is one. -/
def HostOp.access : HostOp → Option HostAccess
  | .wr off v => some (.write .word off v)
  | .rd off => some (.read .word off)
  | .waitDone => none

end Sys2Proof.Machine
end

