-- ==== Sys2Proof/Machine/WholeCommand.lean ====
section
/-! DEFINITION. The whole-command summaries of 42_register_protocol.md and 43_sensor_ops.md as functions of the draws:
what a command completes with, the traffic it puts on the wire, and the sequencer steps it takes. 41_sequencer.md is the
definition (Sequencer.lean); that the two agree is stated in Certificates. -/

namespace Sys2Proof.Machine

/-- A sequencer step that ends the running transaction with a draw. -/
def answer (d : BusDraw) : Input := .seq (some d)

/-- The sequencer steps of one quiescence interval: QCNT counts down, and the last step leaves QUIESCE (R127). -/
def quietScript (p : Params) : List Input := List.replicate (p.qCycles + 1) (.seq none)

/-- The end of a register access (R160, R161): its value or its failure code, its traffic with the quiescence interval,
and its sequencer steps. -/
structure AccessRun (α : Type) where
  ending : Except Code α
  wire : List Wire
  script : List Input

/-- ReadAccess(c) (R160) at address `a`: the held write under `d₁`, then the read under `d₂` unless the write failed. -/
def readAccess (p : Params) (a : BusAddr) (c : Byte) (d₁ d₂ : BusDraw) : AccessRun Byte :=
  let w := busWrite a [c] false d₁
  let r := busRead a 1 true true d₂
  if w.outcome = .fail then
    { ending := .error .failWrite
      wire := w.wire ++ [.quiet]
      script := answer d₁ :: quietScript p }
  else
    { ending := if r.outcome = .fail then .error .failRead else .ok d₂.data
      wire := w.wire ++ r.wire ++ [.quiet]
      script := answer d₁ :: answer d₂ :: quietScript p }

/-- WriteAccess(c, v) (R161) at address `a`. -/
def writeAccess (p : Params) (a : BusAddr) (c v : Byte) (d : BusDraw) : AccessRun Unit :=
  let w := busWrite a [c, v] true d
  { ending := if w.outcome = .fail then .error .failWrite else .ok ()
    wire := w.wire ++ [.quiet]
    script := answer d :: quietScript p }

/-- What a command completes with (STATUS.CODE, RESULT, STATUS.SUBOP), its traffic, and its sequencer steps. -/
structure CommandRun where
  code : Code
  result : Word
  subop : Bool
  wire : List Wire
  script : List Input

/-- PROBE (R170): an absent device is a valid negative result. -/
def probeRun (p : Params) (a : BusAddr) (d : BusDraw) : CommandRun :=
  let r := busRead a p.probeLen true false d
  { code := .ok
    result := if r.outcome = .fail then 0#32 else 1#32
    subop := false
    wire := r.wire ++ [.quiet]
    script := answer d :: quietScript p }

/-- A command that is one read access: READ_REG (R162) with failure value 0, READ_CONFIG (R171) with 255. -/
def oneReadRun (failed : Word) (r : AccessRun Byte) : CommandRun :=
  match r.ending with
  | .ok b => { code := .ok, result := zext32 b, subop := false, wire := r.wire, script := r.script }
  | .error c => { code := c, result := failed, subop := false, wire := r.wire, script := r.script }

/-- A command that is one write access: WRITE_REG (R163), SET_STANDBY (R174). -/
def oneWriteRun (r : AccessRun Unit) : CommandRun :=
  match r.ending with
  | .ok () => { code := .ok, result := 0#32, subop := false, wire := r.wire, script := r.script }
  | .error c => { code := c, result := 0#32, subop := false, wire := r.wire, script := r.script }

/-- READ_TEMP (R172): the configuration access, the data-ready test, and the temperature access only when bit 6 is 1. -/
def readTempRun (off : Word) (r₁ r₂ : AccessRun Byte) : CommandRun :=
  match r₁.ending with
  | .error c => { code := c, result := 404#32, subop := false, wire := r₁.wire, script := r₁.script }
  | .ok cfg =>
    if cfg.getLsbD 6 then
      match r₂.ending with
      | .error c =>
        { code := c
          result := 404#32
          subop := true
          wire := r₁.wire ++ r₂.wire
          script := r₁.script ++ .seq none :: r₂.script }
      | .ok t =>
        { code := .ok
          result := tempSum t off
          subop := true
          wire := r₁.wire ++ r₂.wire
          script := r₁.script ++ .seq none :: r₂.script }
    else
      { code := .notReady
        result := 404#32
        subop := false
        wire := r₁.wire
        script := r₁.script ++ [.seq none] }

/-- The whole run of a command that was accepted and dispatched, by its rule, under the draws of its transactions in
order; a draw no transaction reaches is not used. -/
def commandRun (p : Params) (off : Word) (d₁ d₂ d₃ d₄ : BusDraw) : Instr → CommandRun
  | .init => { code := .ok, result := 0#32, subop := false, wire := [], script := [.seq none] }
  | .probe a => probeRun p a d₁
  | .readConfig a => oneReadRun 255#32 (readAccess p a p.cmdConfig d₁ d₂)
  | .readTemp a =>
    readTempRun off (readAccess p a p.cmdConfig d₁ d₂) (readAccess p a p.cmdTemp d₃ d₄)
  | .setStandby a e => oneWriteRun (writeAccess p a p.cmdConfig (if e then 0x80#8 else 0x00#8) d₁)
  | .readReg a r => oneReadRun 0#32 (readAccess p a (cmdByte p r) d₁ d₂)
  | .writeReg a r v => oneWriteRun (writeAccess p a (cmdByte p r) v d₁)

end Sys2Proof.Machine
end

