-- ==== Sys2Proof/Safety.lean ====
section
/-! DEFINITION. What the statements speak of: the coherent states of the machine, the states a command is ready to run
in, and runs under a list of inputs. -/

namespace Sys2Proof.Machine

/-! Coherent states -/

/-- A command that uses the bus runs only when INIT has completed and its address is admissible (R73, R132, R143). -/
def State.BusAllowed (s : State) : Prop := s.initDone = true ∧ admissible s.params s.latch.addr = true

/-- The command byte of the running read access is the one its command selects (R74, R145, R150). -/
def State.ReadAccessCoherent (s : State) : Prop :=
  (s.latch.op = opBits .readReg ∧ s.work.accCmdb = cmdByte s.params (regOfBit s.latch.reg)) ∨
  (s.latch.op = opBits .readConfig ∧ s.work.accCmdb = cmdByte s.params .config) ∨
  (s.latch.op = opBits .readTemp ∧ s.work.stage = .config ∧ s.work.accCmdb = cmdByte s.params .config) ∨
  (s.latch.op = opBits .readTemp ∧ s.work.stage = .temp ∧ s.work.accCmdb = cmdByte s.params .temp)

/-- The command byte and the data byte of the running write access are those its command selects (R74, R145, R174). -/
def State.WriteAccessCoherent (s : State) : Prop :=
  (s.latch.op = opBits .writeReg ∧ s.work.accCmdb = cmdByte s.params (regOfBit s.latch.reg) ∧
    s.work.accData = s.latch.val) ∨
  (s.latch.op = opBits .setStandby ∧ s.work.accCmdb = cmdByte s.params .config ∧
    s.work.accData = standbyByte s.latch.en)

/-- The sequencer state belongs to the command in the latches (R145, R146, R152). -/
def State.CommandCoherent (s : State) : Prop :=
  match s.seq with
  | .idle => True
  | .cfg => s.latch.op = opBits .init ∧ s.initDone = false
  | .probeRd => s.latch.op = opBits .probe ∧ s.BusAllowed
  | .wrTx =>
    s.BusAllowed ∧
      match s.work.accKind with
      | .read => s.ReadAccessCoherent
      | .write => s.WriteAccessCoherent
  | .rdTx => s.BusAllowed ∧ s.work.accKind = .read ∧ s.ReadAccessCoherent
  | .quiesce =>
    s.BusAllowed ∧ ∃ op : Opcode, op ≠ .init ∧ s.latch.op = opBits op
  | .check => s.BusAllowed ∧ s.latch.op = opBits .readTemp ∧ s.work.stage = .config ∧ s.work.accOk = true

/-- The states the machine's rules keep it in. -/
structure Coherent (s : State) : Prop where
  /-- The parameters are as R7 asks. -/
  params : s.params.WellFormed
  /-- STATUS.INIT = 1 exactly when BUSCFG has been set, and to the values of R191 (R51). -/
  busCfg :
    (s.initDone = true ∧ s.busClk = some s.params.sclHz ∧ s.busPullup = true) ∨
      (s.initDone = false ∧ s.busClk = none ∧ s.busPullup = false)
  /-- When DONE = 1, BUSY = 0 (R38). -/
  doneIdle : s.done = true → s.seq = .idle
  /-- BUS_HELD = 1 exactly between a held write and its read (R52, R129). -/
  held : s.busHeld = true ↔ s.seq = .rdTx
  /-- The latches are those of the command in CMD (R48, R142). -/
  latched : s.latch = latchesOf s.cmd s.latch.off
  /-- A running command is legal (R105, R143). -/
  legalRuns : s.seq ≠ .idle → legal s.cmd = true
  /-- The sequencer state belongs to the latched command. -/
  command : s.CommandCoherent
  /-- QCNT never exceeds what QUIESCE loads (R53). -/
  quiet : s.qcnt ≤ s.params.qCycles
  /-- While reset is asserted every register of the controller holds its reset value (R240, R241). -/
  atReset : s.inReset = true → s = s.resetController
  /-- The target list is in its canonical form. -/
  rising : targetsRising s.targets = true
  /-- DATA_RDY is 0 on a reference target in standby (R224). -/
  standby : ∀ e ∈ s.targets, e.2.shdn = true → e.2.dataRdy = false

/-! Runs -/

/-- The host access that issues a command: a whole-word write of its word to CMD (R2, R109). -/
def issueAccess (i : Instr) : HostAccess := .write .word offCmd (encode i)

/-- The machine run on the inputs of `script`, one step for each. -/
def drive (script : List Input) (s : State) : Host.Outcome State Fault Refusal :=
  Host.Core.run Sys2Proof.core script.length { s with inputs := script ++ s.inputs }

/-- Under this draw the held write of a read access succeeds (R122, R160): the target takes the command byte `c`. -/
def BusDraw.takesCommand (a : BusAddr) (c : Byte) (d : BusDraw) : Prop :=
  (busWrite a [c] false d).outcome = .count 1

/-- Under this draw the read transaction of a read access succeeds (R124, R160): the target sends the byte of the draw. -/
def BusDraw.sendsByte (a : BusAddr) (d : BusDraw) : Prop := (busRead a 1 true true d).outcome = .bytes [d.data]

/-- The traffic of a read access that succeeds (R160): `S W(a) A c A Sr R(a) A b N P Q`. -/
def goodReadWire (a : BusAddr) (c b : Byte) : List Wire :=
  [.start, .byte (addrByte a false), .ack, .byte c, .ack,
    .restart, .byte (addrByte a true), .ack, .byte b, .nack, .stop, .quiet]

/-- Bytes on the wire that were each acknowledged (R122). -/
def takenBytes : List Byte → List Wire
  | [] => []
  | b :: rest => .byte b :: .ack :: takenBytes rest

/-- A byte that was not acknowledged and the STOP that follows it (R122, R124). -/
def refusedByte (b : Byte) : List Wire := [.byte b, .nack, .stop]

/-- READ_TEMP from its CMD write on, when its configuration access succeeds under `d₁` and `d₂` and bit 6 is 1: that
access, its interval, CHECK, the temperature access's transactions `txs`, and the second interval (R152). -/
def readTempScript (p : Params) (a : BusAddr) (d₁ d₂ : BusDraw) (txs : List Input) : List Input :=
  .host (issueAccess (.readTemp a)) :: answer d₁ :: answer d₂ ::
    (quietScript p ++ .seq none :: (txs ++ quietScript p))

/-- SET_STANDBY and then READ_CONFIG at one address, with the reference target as the environment (R179). -/
def standbyReadBackScript (p : Params) (a : BusAddr) (e : Bool) : List Input :=
  .host (issueAccess (.setStandby a e)) :: .seqRef ::
    (quietScript p ++ .host (issueAccess (.readConfig a)) :: .seqRef :: .seqRef :: quietScript p)

/-- The states in which a command that uses the bus is accepted and dispatched (R140, R143), with the bus configured and
free as it is in every coherent idle state (R51, R52). -/
structure ReadyFor (i : Instr) (s : State) : Prop where
  notInReset : s.inReset = false
  idle : s.seq = .idle
  initDone : s.initDone = true
  configured : s.busConfigured = true
  free : s.busHeld = false
  addr : admissible s.params i.addr = true

/-- An access of the shape the host port carries (R77). -/
def HostAccess.carried : HostAccess → Bool
  | .read size off => wholeWord size off
  | .write size off _ => wholeWord size off

/-- An input that brings no outcome of a running transaction and does not touch reset (R128). -/
def Input.silent : Input → Bool
  | .host a => a.carried
  | .seq d => d.isNone
  | .seqRef => false
  | .cycle r none d => !r && d.isNone
  | .cycle r (some a) d => !r && a.carried && d.isNone
  | .rst _ => false
  | .convert _ _ => true
  | .powerUp _ _ => true

/-- An input that asserts reset (R240). -/
def Input.assertsReset : Input → Bool
  | .host _ => false
  | .seq _ => false
  | .seqRef => false
  | .cycle r _ _ => r
  | .rst asserted => asserted
  | .convert _ _ => false
  | .powerUp _ _ => false

/-- The host access an input makes, if it makes one. -/
def Input.access : Input → Option HostAccess
  | .host a => some a
  | .seq _ => none
  | .seqRef => none
  | .cycle _ a _ => a
  | .rst _ => none
  | .convert _ _ => none
  | .powerUp _ _ => none

end Sys2Proof.Machine
end

