-- ==== Sys2Proof/Certificates/Slice0/Obligations.lean ====
section
/-! DEFINITION. The statements for the provers: one Prop each, from the numbered rules of spec/. -/

open Sys2Proof Sys2Proof.Machine

/-! ## Encoding -/

/-- Decoding the word of a command gives the command back, for every operand (R101 to R104). -/
def Obligations.DecodeOfEncode : Prop :=
  ∀ i : Instr, decode (encode i) = .ok i

/-- Only the word of a command decodes to it: no bit of a legal word is dropped (R103: unused fields are 0). -/
def Obligations.EncodeOfDecode : Prop :=
  ∀ (w : Word) (i : Instr), decode w = .ok i → encode i = w

/-- R105: a word is legal exactly when it matches one row of R103, and then it is a command for the decoder. -/
def Obligations.LegalExactlyOnTableRows : Prop :=
  ∀ w : Word,
    (legal w = true ↔
      w &&& 0xFFFFFFFF#32 = 0x00000001#32 ∨ w &&& 0xFFFF80FF#32 = 0x00000002#32 ∨
      w &&& 0xFFFF80FF#32 = 0x00000003#32 ∨ w &&& 0xFFFF80FF#32 = 0x00000004#32 ∨
      w &&& 0xFFFF80DF#32 = 0x00000005#32 ∨ w &&& 0xFFFF80EF#32 = 0x00000006#32 ∨
      w &&& 0xFF0080EF#32 = 0x00000007#32) ∧
    (legal w = true ↔ ∃ i, decode w = .ok i)

/-- The seven rows of R103 are pairwise disjoint. -/
def Obligations.TableRowsDisjoint : Prop :=
  ∀ (w : Word) (p q : Opcode), hitsRow w p = true → hitsRow w q = true → p = q

/-- Which words are illegal (R106): an opcode 0x0 or 0x8 to 0xF, a nonzero reserved bit, or a nonzero field the opcode
does not use. -/
def Obligations.IllegalWordsNamedByBits : Prop :=
  ∀ w : Word, legal w = false ↔
    (fieldOp w = 0x0#4 ∨ 8 ≤ (fieldOp w).toNat) ∨
    w.extractLsb' 6 2 ≠ 0#2 ∨ w.getLsbD 15 = true ∨ w.extractLsb' 24 8 ≠ 0#8 ∨
    (fieldValue w ≠ 0#8 ∧ fieldOp w ≠ 0x7#4) ∨
    (fieldReg w = true ∧ fieldOp w ≠ 0x6#4 ∧ fieldOp w ≠ 0x7#4) ∨
    (fieldEn w = true ∧ fieldOp w ≠ 0x5#4) ∨
    (fieldAddr w ≠ 0#7 ∧ fieldOp w = 0x1#4)

/-- The example words of R111: thirteen commands, two illegal words, and a legal word whose address is not admissible
with the default parameters. -/
def Obligations.ExampleWordsDecode : Prop :=
  decode 0x00000001#32 = .ok .init ∧
  decode 0x00004C02#32 = .ok (.probe 0x4C#7) ∧
  decode 0x00004802#32 = .ok (.probe 0x48#7) ∧
  decode 0x00004C03#32 = .ok (.readConfig 0x4C#7) ∧
  decode 0x00004803#32 = .ok (.readConfig 0x48#7) ∧
  decode 0x00004C04#32 = .ok (.readTemp 0x4C#7) ∧
  decode 0x00004C25#32 = .ok (.setStandby 0x4C#7 true) ∧
  decode 0x00004C05#32 = .ok (.setStandby 0x4C#7 false) ∧
  decode 0x00004C06#32 = .ok (.readReg 0x4C#7 .temp) ∧
  decode 0x00004C16#32 = .ok (.readReg 0x4C#7 .config) ∧
  decode 0x00804C17#32 = .ok (.writeReg 0x4C#7 .config 0x80#8) ∧
  decode 0x00124F07#32 = .ok (.writeReg 0x4F#7 .temp 0x12#8) ∧
  decode 0x00001002#32 = .ok (.probe 0x10#7) ∧
  legal 0x00004C12#32 = false ∧
  legal 0x00004C08#32 = false ∧
  legal 0x00001002#32 = true ∧
  0x10#7 ∉ Params.default.legalAddrs

/-- The assembler on every statement of R109 and R110: a command statement in range is the word of R109 and one out of
range is refused; a raw word and a raw access are the host's access; a pseudo-instruction is refused exactly when the
statement it expands to is, and SETOFF, WAIT, CLEAR and SCAN never are. The ranges of raw words and offsets, SETOFF's any
integer, and WAIT as one action are the model's choices (log 19). -/
def Obligations.AssemblerWords : Prop :=
  ∀ (p : Params) (a e r v w off : Nat) (o : Int) (st : Stmt),
    assemble p .init = some [.wr offCmd 0x00000001#32] ∧
    assemble p (.probe a) = (if a ≤ 0x7F then some [.wr offCmd (BitVec.ofNat 32 (a <<< 8 ||| 0x2))] else none) ∧
    assemble p (.readConfig a) = (if a ≤ 0x7F then some [.wr offCmd (BitVec.ofNat 32 (a <<< 8 ||| 0x3))] else none) ∧
    assemble p (.readTemp a) = (if a ≤ 0x7F then some [.wr offCmd (BitVec.ofNat 32 (a <<< 8 ||| 0x4))] else none) ∧
    assemble p (.setStandby a e) =
      (if a ≤ 0x7F ∧ e ≤ 1 then some [.wr offCmd (BitVec.ofNat 32 (e <<< 5 ||| a <<< 8 ||| 0x5))] else none) ∧
    assemble p (.readReg a r) =
      (if a ≤ 0x7F ∧ r ≤ 1 then some [.wr offCmd (BitVec.ofNat 32 (r <<< 4 ||| a <<< 8 ||| 0x6))] else none) ∧
    assemble p (.writeReg a r v) =
      (if a ≤ 0x7F ∧ r ≤ 1 ∧ v ≤ 0xFF then
        some [.wr offCmd (BitVec.ofNat 32 (v <<< 16 ||| r <<< 4 ||| a <<< 8 ||| 0x7))] else none) ∧
    assemble p (.word w) = (if w < 2 ^ 32 then some [.wr offCmd (BitVec.ofNat 32 w)] else none) ∧
    assemble p (.wr off w) =
      (if (off < 32 ∧ off % 4 = 0) ∧ w < 2 ^ 32 then some [.wr (BitVec.ofNat 5 off) (BitVec.ofNat 32 w)] else none) ∧
    assemble p (.rd off) = (if off < 32 ∧ off % 4 = 0 then some [.rd (BitVec.ofNat 5 off)] else none) ∧
    offCmd.toNat = 0x00 ∧ offStatus.toNat = 0x04 ∧ offOffset.toNat = 0x08 ∧ offResult.toNat = 0x0C ∧
    assemble p (.standby a) = assemble p (.setStandby a 1) ∧
    assemble p (.wake a) = assemble p (.setStandby a 0) ∧
    assemble p (.run st) = (assemble p st).map (fun l => l ++ [.waitDone, .rd offResult]) ∧
    assemble p (.readTempOffset a o) = (assemble p (.readTemp a)).map (fun l => .wr offOffset (BitVec.ofInt 32 o) :: l) ∧
    assemble p (.setOff o) = some [.wr offOffset (BitVec.ofInt 32 o)] ∧
    assemble p .wait = some [.waitDone] ∧
    assemble p .clear = some [.wr offStatus 0x0000000A#32] ∧
    assemble p .scan = some (expand p .scan)

/-- The pseudo-instructions of R110 on top of the statements of R109; SCAN probes every admissible address once, in
increasing order. WAIT is one action of the host program (the model's choice, log 19). -/
def Obligations.PseudoInstructionsExpand : Prop :=
  ∀ (p : Params) (a : Nat) (o : Int) (st : Stmt),
    expand p (.setOff o) = [.wr offOffset (BitVec.ofInt 32 o)] ∧
    expand p (.standby a) = expand p (.setStandby a 1) ∧
    expand p (.wake a) = expand p (.setStandby a 0) ∧
    expand p (.run st) = expand p st ++ expand p .wait ++ [.rd offResult] ∧
    expand p (.readTempOffset a o) = expand p (.setOff o) ++ expand p (.readTemp a) ∧
    expand p .clear = [.wr offStatus 0x0000000A#32] ∧
    (∃ l : List BusAddr,
      l.Pairwise (fun x y => x.toNat < y.toNat) ∧ (∀ x, x ∈ l ↔ x ∈ p.legalAddrs) ∧
      expand p .scan = l.flatMap (fun x => expand p (.run (.probe x.toNat))))

/-! ## Acceptance (41_sequencer.md) -/

/-- A host's write of a command word to CMD is one step that runs the decoded command's meaning, after the input is
taken; and the word placed by withFetchWord is the command the next step runs. That the host's accesses wait in a list
of inputs, and that this list is where the next instruction is fetched, are the model's choices (logs 1 and 3). -/
def Obligations.StepRunsDecodedCommand : Prop :=
  ∀ (s : State) (w : Word) (i : Instr) (rest : List Input), decode w = .ok i →
    (s.inReset = false → s.inputs = .host (.write .word 0x00#5 w) :: rest →
      step s = exec i { s with inputs := rest }) ∧
    step (s.withFetchWord 32 w.toNat) = exec i { s with inReset := false }

/-- R141: while a command runs, a CMD write of any word sets REJECTED and nothing else. -/
def Obligations.BusyControllerRejects : Prop :=
  ∀ (s : State) (w : Word), s.seq ≠ .idle →
    cmdWrite w s = .next { s with rejected := true } ∧
    ∀ i : Instr, exec i s = .next { s with rejected := true }

/-- R142: an accepted word is in CMD, its fields and OFFSET are in the latches, and REJECTED and OFFSET are kept; when the
command then runs, DONE is 0 and CODE, SUBOP and RESULT are the previous command's. A word that starts no sequence has
completed in the same step (R143, R147), so its DONE is 1. -/
def Obligations.AcceptanceLatchesWord : Prop :=
  ∀ (s : State) (w : Word), s.seq = .idle →
    ∃ t, cmdWrite w s = .next t ∧ t.cmd = w ∧
      t.latch =
        { op := w.extractLsb' 0 4, reg := w.getLsbD 4, en := w.getLsbD 5, addr := w.extractLsb' 8 7,
          val := w.extractLsb' 16 8, off := s.offset } ∧
      t.rejected = s.rejected ∧ t.offset = s.offset ∧ t.wire = s.wire ∧
      (t.seq ≠ .idle →
        t.done = false ∧ t.code = s.code ∧ t.subop = s.subop ∧ t.result = s.result) ∧
      (t.seq = .idle → t.done = true)

/-- R143: the checks at acceptance in their order; the first that holds completes the command in the accepting step, and
a word that passes them all starts a sequence. -/
def Obligations.AcceptanceChecksInOrder : Prop :=
  ∀ (s : State) (w : Word), s.seq = .idle →
    (legal w = false → cmdWrite w s = .next ((s.accept w).complete .illegalCmd 0#32 false)) ∧
    (∀ op, hitsRow w op = true → op ≠ .init → s.initDone = false →
      cmdWrite w s = .next ((s.accept w).complete .notInit (failVal op) false)) ∧
    (hitsRow w .init = true → s.initDone = true →
      cmdWrite w s = .next ((s.accept w).complete .alreadyInit 0#32 false)) ∧
    (∀ op, hitsRow w op = true → op ≠ .init → s.initDone = true → w.extractLsb' 8 7 ∉ s.params.legalAddrs →
      cmdWrite w s = .next ((s.accept w).complete .illegalAddr (failVal op) false)) ∧
    (∀ op, hitsRow w op = true → (op = .init → s.initDone = false) →
      (op ≠ .init → s.initDone = true ∧ w.extractLsb' 8 7 ∈ s.params.legalAddrs) →
      ∃ t, cmdWrite w s = .next t ∧ t.busy = true ∧ t.cmd = w)

/-- A command before INIT completes in its accepting step with NOT_INIT and the failure value of its opcode (R143, R144),
404 for READ_TEMP and 255 for READ_CONFIG (R7). -/
def Obligations.FailureValues : Prop :=
  ∀ (s : State) (i : Instr), s.seq = .idle → s.initDone = false → i ≠ .init →
    ∃ t, exec i s = .next t ∧ t.code = .notInit ∧ t.subop = false ∧ t.done = true ∧ t.seq = .idle ∧
      t.result =
        match i with
        | .readConfig _ => 255#32
        | .readTemp _ => 404#32
        | .init => 0#32
        | .probe _ => 0#32
        | .setStandby _ _ => 0#32
        | .readReg _ _ => 0#32
        | .writeReg _ _ _ => 0#32

/-- A command whose ADDR is not admissible completes with ILLEGAL_ADDR in the accepting step, with no bus traffic (R73,
R143, R144), and nothing but CMD, the latches and the outcome changes. -/
def Obligations.InadmissibleAddressCompletes : Prop :=
  ∀ (s : State) (i : Instr), s.seq = .idle → s.initDone = true → i ≠ .init → i.addr ∉ s.params.legalAddrs →
    exec i s = .next
      { s with
        cmd := encode i
        latch := latchesOf (encode i) s.offset
        done := true
        code := .illegalAddr
        subop := false
        result := failVal i.opcode }

/-- INIT in a state without INIT done starts the CFG step (R145, R190), and changes nothing else but CMD, DONE and the
latches. -/
def Obligations.InitStartsConfiguration : Prop :=
  ∀ s : State, s.seq = .idle → s.initDone = false →
    exec .init s = .next
      { s with
        cmd := 0x00000001#32
        done := false
        latch := { op := 1#4, reg := false, en := false, addr := 0#7, val := 0#8, off := s.offset }
        seq := .cfg }

/-- A second INIT completes with ALREADY_INIT in the accepting step and leaves the bus configuration alone (R190, R192). -/
def Obligations.SecondInitChangesNothingElse : Prop :=
  ∀ s : State, s.seq = .idle → s.initDone = true →
    exec .init s = .next
      { s with
        cmd := 0x00000001#32
        done := true
        latch := { op := 1#4, reg := false, en := false, addr := 0#7, val := 0#8, off := s.offset }
        code := .alreadyInit
        subop := false
        result := 0#32
        seq := .idle }

/-- PROBE, ready to run: the read transaction starts with no register access before it (R145, R170). -/
def Obligations.ProbeDispatch : Prop :=
  ∀ (s : State) (a : BusAddr), ReadyFor (.probe a) s →
    exec (.probe a) s = .next
      { s with
        cmd := encode (.probe a)
        done := false
        latch := { op := 2#4, reg := false, en := false, addr := a, val := 0#8, off := s.offset }
        seq := .probeRd }

/-- READ_CONFIG, READ_TEMP and READ_REG, ready to run: a read access starts, of the configuration register for the first
two (READ_TEMP at STAGE 0) and of the named register for READ_REG (R74, R145). -/
def Obligations.ReadCommandsDispatch : Prop :=
  ∀ (s : State) (a : BusAddr) (r : TargetReg),
    (ReadyFor (.readConfig a) s →
      exec (.readConfig a) s = .next
        { s with
          cmd := encode (.readConfig a)
          done := false
          latch := { op := 3#4, reg := false, en := false, addr := a, val := 0#8, off := s.offset }
          work := { s.work with accKind := .read, accCmdb := s.params.cmdConfig }
          seq := .wrTx }) ∧
    (ReadyFor (.readTemp a) s →
      exec (.readTemp a) s = .next
        { s with
          cmd := encode (.readTemp a)
          done := false
          latch := { op := 4#4, reg := false, en := false, addr := a, val := 0#8, off := s.offset }
          work := { s.work with stage := .config, accKind := .read, accCmdb := s.params.cmdConfig }
          seq := .wrTx }) ∧
    (ReadyFor (.readReg a r) s →
      exec (.readReg a r) s = .next
        { s with
          cmd := encode (.readReg a r)
          done := false
          latch :=
            { op := 6#4, reg := (match r with | .temp => false | .config => true), en := false, addr := a,
              val := 0#8, off := s.offset }
          work :=
            { s.work with
              accKind := .read
              accCmdb := (match r with | .temp => s.params.cmdTemp | .config => s.params.cmdConfig) }
          seq := .wrTx })

/-- SET_STANDBY and WRITE_REG, ready to run: a write access starts, of `{EN, 0000000}` to the configuration register for
SET_STANDBY and of VALUE to the named register for WRITE_REG (R104, R145, R174). -/
def Obligations.WriteCommandsDispatch : Prop :=
  ∀ (s : State) (a : BusAddr) (e : Bool) (r : TargetReg) (v : Byte),
    (ReadyFor (.setStandby a e) s →
      exec (.setStandby a e) s = .next
        { s with
          cmd := encode (.setStandby a e)
          done := false
          latch := { op := 5#4, reg := false, en := e, addr := a, val := 0#8, off := s.offset }
          work :=
            { s.work with
              accKind := .write
              accCmdb := s.params.cmdConfig
              accData := if e then 0x80#8 else 0x00#8 }
          seq := .wrTx }) ∧
    (ReadyFor (.writeReg a r v) s →
      exec (.writeReg a r v) s = .next
        { s with
          cmd := encode (.writeReg a r v)
          done := false
          latch :=
            { op := 7#4, reg := (match r with | .temp => false | .config => true), en := false, addr := a,
              val := v, off := s.offset }
          work :=
            { s.work with
              accKind := .write
              accCmdb := (match r with | .temp => s.params.cmdTemp | .config => s.params.cmdConfig)
              accData := v }
          seq := .wrTx })

/-! ## Whole commands (42, 43, 44) -/

/-- INIT from its CMD write to its completion is two steps: the bus is configured, STATUS.INIT is set, and nothing is
put on the wire (R190, R191). -/
def Obligations.InitConfiguresBus : Prop :=
  ∀ s : State, s.inReset = false → s.seq = .idle → s.initDone = false →
    drive [.host (issueAccess .init), .seq none] s = .next
      { s with
        cmd := 0x00000001#32
        latch := { op := 1#4, reg := false, en := false, addr := 0#7, val := 0#8, off := s.offset }
        busClk := some s.params.sclHz
        busPullup := true
        initDone := true
        done := true
        code := .ok
        subop := false
        result := 0#32 }

/-- The sequencer refines the whole-command rules R160 to R163 and R170 to R174: a command that is ready to run ends,
under any draws, after the steps its rule takes, with the CODE, RESULT and SUBOP of its rule and its traffic on the wire;
besides these only CMD, the latches and the working registers have changed, and QCNT is 0. The number of steps of an
interval and the representation of draws and traffic are the model's choices (logs 5, 6 and 9). -/
def Obligations.SequencerRefinesCommands : Prop :=
  ∀ (s : State) (i : Instr) (d₁ d₂ d₃ d₄ : BusDraw), i ≠ .init → ReadyFor i s →
    let r := commandRun s.params s.offset d₁ d₂ d₃ d₄ i
    ∃ work : Working,
      drive (.host (issueAccess i) :: r.script) s = .next
        { s with
          cmd := encode i
          latch := latchesOf (encode i) s.offset
          done := true
          code := r.code
          result := r.result
          subop := r.subop
          qcnt := 0
          work := work
          wire := s.wire ++ r.wire }

/-- READ_REG and READ_CONFIG whose access succeeds end with the byte zero-extended and unmasked, CODE OK (also for 0xFF),
and the traffic `S W(a) A c A Sr R(a) A d N P Q` (R160, R162, R171). -/
def Obligations.ReadCommandsReturnByte : Prop :=
  ∀ (s : State) (a : BusAddr) (i : Instr) (c : Byte) (d₁ d₂ : BusDraw),
    ((∃ r, i = .readReg a r ∧ c = cmdByte s.params r) ∨ (i = .readConfig a ∧ c = s.params.cmdConfig)) →
    ReadyFor i s → d₁.takesCommand a c → d₂.sendsByte a →
    ∃ t, drive (.host (issueAccess i) :: answer d₁ :: answer d₂ :: quietScript s.params) s = .next t ∧
      t.code = .ok ∧ t.subop = false ∧ t.done = true ∧ t.seq = .idle ∧ t.result.toNat = d₂.data.toNat ∧
      t.wire = s.wire ++ goodReadWire a c d₂.data

/-- A read command whose command byte is not taken ends with FAIL_WRITE and its failure value, and issues no read
transaction: nothing but the failed write and one interval is on the wire (R144, R149, R160). -/
def Obligations.RefusedCommandByteEndsRead : Prop :=
  ∀ (s : State) (a : BusAddr) (i : Instr) (c : Byte) (d : BusDraw),
    ((∃ r, i = .readReg a r ∧ c = cmdByte s.params r) ∨ (i = .readConfig a ∧ c = s.params.cmdConfig) ∨
      (i = .readTemp a ∧ c = s.params.cmdConfig)) →
    ReadyFor i s → (busWrite a [c] false d).outcome = .fail →
    ∃ t, drive (.host (issueAccess i) :: answer d :: quietScript s.params) s = .next t ∧
      t.code = .failWrite ∧ t.subop = false ∧ t.done = true ∧ t.seq = .idle ∧ t.busHeld = false ∧
      t.result = failVal i.opcode ∧ t.work.rxb = s.work.rxb ∧
      t.wire = s.wire ++ (busWrite a [c] false d).wire ++ [.quiet]

/-- A read command whose read transaction fails after its command byte was taken ends with FAIL_READ (R149), its failure
value, and RXB as it was: a failure carries no data (R49, R121). -/
def Obligations.FailedReadEndsCommand : Prop :=
  ∀ (s : State) (a : BusAddr) (i : Instr) (c : Byte) (d₁ d₂ : BusDraw),
    ((∃ r, i = .readReg a r ∧ c = cmdByte s.params r) ∨ (i = .readConfig a ∧ c = s.params.cmdConfig) ∨
      (i = .readTemp a ∧ c = s.params.cmdConfig)) →
    ReadyFor i s → d₁.takesCommand a c → (busRead a 1 true true d₂).outcome = .fail →
    ∃ t, drive (.host (issueAccess i) :: answer d₁ :: answer d₂ :: quietScript s.params) s = .next t ∧
      t.code = .failRead ∧ t.subop = false ∧ t.done = true ∧ t.seq = .idle ∧ t.busHeld = false ∧
      t.result = failVal i.opcode ∧ t.work.rxb = s.work.rxb

/-- WRITE_REG and SET_STANDBY: one write transaction `[command, value]` and one interval; CODE tells success from
failure, RESULT is 0 either way (R161, R163, R174). -/
def Obligations.WriteCommandsComplete : Prop :=
  ∀ (s : State) (a : BusAddr) (i : Instr) (c v : Byte) (d : BusDraw),
    ((∃ r, i = .writeReg a r v ∧ c = cmdByte s.params r) ∨
      (∃ e, i = .setStandby a e ∧ c = s.params.cmdConfig ∧ v = if e then 0x80#8 else 0x00#8)) →
    ReadyFor i s →
    let r := busWrite a [c, v] true d
    ∃ t, drive (.host (issueAccess i) :: answer d :: quietScript s.params) s = .next t ∧
      t.code = (if r.outcome = .fail then .failWrite else .ok) ∧ t.subop = false ∧ t.done = true ∧
      t.seq = .idle ∧ t.result = 0#32 ∧ t.busHeld = false ∧ t.wire = s.wire ++ r.wire ++ [.quiet]

/-- READ_TEMP with both accesses good and bit 6 of the configuration byte set (R172, R173): RESULT is the sum of the
signed byte and the offset at acceptance, wrapped and not clamped, SUBOP is 1, and the traffic is the two accesses. Bit 7
and bits 5:0 of the configuration byte play no part (R150). -/
def Obligations.ReadTempReturnsSum : Prop :=
  ∀ (s : State) (a : BusAddr) (d₁ d₂ d₃ d₄ : BusDraw), ReadyFor (.readTemp a) s →
    d₁.takesCommand a s.params.cmdConfig → d₂.sendsByte a → d₂.data.getLsbD 6 = true →
    d₃.takesCommand a s.params.cmdTemp → d₄.sendsByte a →
    ∃ t, drive (readTempScript s.params a d₁ d₂ [answer d₃, answer d₄]) s = .next t ∧
      t.code = .ok ∧ t.subop = true ∧ t.done = true ∧ t.seq = .idle ∧
      t.result = BitVec.ofInt 32 (d₄.data.toInt + s.offset.toInt) ∧
      t.wire =
        s.wire ++ (goodReadWire a s.params.cmdConfig d₂.data ++ goodReadWire a s.params.cmdTemp d₄.data)

/-- READ_TEMP on a configuration byte with bit 6 = 0 ends with NOT_READY and 404, SUBOP 0, and no second access: the
temperature register is never read (R150, R178). -/
def Obligations.NotReadyDominates : Prop :=
  ∀ (s : State) (a : BusAddr) (d₁ d₂ : BusDraw), ReadyFor (.readTemp a) s →
    d₁.takesCommand a s.params.cmdConfig → d₂.sendsByte a → d₂.data.getLsbD 6 = false →
    ∃ t,
      drive (.host (issueAccess (.readTemp a)) :: answer d₁ :: answer d₂ :: (quietScript s.params ++ [.seq none])) s =
        .next t ∧
      t.code = .notReady ∧ t.result = 404#32 ∧ t.subop = false ∧ t.done = true ∧ t.seq = .idle ∧
      t.wire = s.wire ++ goodReadWire a s.params.cmdConfig d₂.data

/-- READ_TEMP whose temperature access fails ends with 404 and SUBOP 1, FAIL_WRITE when the command byte was not taken
and FAIL_READ when the read failed (R42, R148, R172). -/
def Obligations.TemperatureAccessFailure : Prop :=
  ∀ (s : State) (a : BusAddr) (d₁ d₂ d₃ d₄ : BusDraw), ReadyFor (.readTemp a) s →
    d₁.takesCommand a s.params.cmdConfig → d₂.sendsByte a → d₂.data.getLsbD 6 = true →
    ((busWrite a [s.params.cmdTemp] false d₃).outcome = .fail →
      ∃ t, drive (readTempScript s.params a d₁ d₂ [answer d₃]) s = .next t ∧
        t.code = .failWrite ∧ t.result = 404#32 ∧ t.subop = true ∧ t.done = true ∧ t.seq = .idle) ∧
    (d₃.takesCommand a s.params.cmdTemp → (busRead a 1 true true d₄).outcome = .fail →
      ∃ t, drive (readTempScript s.params a d₁ d₂ [answer d₃, answer d₄]) s = .next t ∧
        t.code = .failRead ∧ t.result = 404#32 ∧ t.subop = true ∧ t.done = true ∧ t.seq = .idle)

/-- The temperature sum is exact in the range of R173 and wraps modulo 2^32 outside it. -/
def Obligations.TemperatureSumRange : Prop :=
  ∀ (t : Byte) (off : Word),
    (-2 ^ 31 + 128 ≤ off.toInt → off.toInt ≤ 2 ^ 31 - 1 - 127 → (tempSum t off).toInt = t.toInt + off.toInt) ∧
    ((tempSum t off).toInt - (t.toInt + off.toInt)) % 2 ^ 32 = 0

/-- R176: for fixed outcomes in which both accesses succeed and bit 6 of the configuration byte is 1, READ_TEMP with an
offset gives the signed RESULT it gives with offset 0, plus the offset, whenever that sum is in the 32-bit range. -/
def Obligations.OffsetIsLinear : Prop :=
  ∀ (s : State) (a : BusAddr) (d₁ d₂ d₃ d₄ : BusDraw), ReadyFor (.readTemp a) s →
    d₁.takesCommand a s.params.cmdConfig → d₂.sendsByte a → d₂.data.getLsbD 6 = true →
    d₃.takesCommand a s.params.cmdTemp → d₄.sendsByte a →
    ∃ t t₀,
      drive (readTempScript s.params a d₁ d₂ [answer d₃, answer d₄]) s = .next t ∧
      drive (readTempScript s.params a d₁ d₂ [answer d₃, answer d₄]) { s with offset := 0#32 } = .next t₀ ∧
      (-2 ^ 31 ≤ t₀.result.toInt + s.offset.toInt → t₀.result.toInt + s.offset.toInt < 2 ^ 31 →
        t.result.toInt = t₀.result.toInt + s.offset.toInt)

/-- No state of the controller outlives a command but STATUS.INIT with BUSCFG and OFFSET (R58): two idle machines that
agree on these (and on the parameters, the reset level and BUS_HELD) answer a command and any later sequencer steps with
the same traffic, the same sequencer state and, once done, the same outcome. -/
def Obligations.CommandsIgnoreEarlierOutputs : Prop :=
  ∀ (s s' t : State) (i : Instr) (ds : List (Option BusDraw)),
    s.seq = .idle → s'.seq = .idle → s.inReset = false → s'.inReset = false →
    s'.params = s.params → s'.initDone = s.initDone → s'.busClk = s.busClk → s'.busPullup = s.busPullup →
    s'.busHeld = s.busHeld → s'.offset = s.offset →
    drive (.host (issueAccess i) :: ds.map Input.seq) s = .next t →
    ∃ t', drive (.host (issueAccess i) :: ds.map Input.seq) s' = .next t' ∧
      t'.seq = t.seq ∧ t'.done = t.done ∧
      (∃ w, t.wire = s.wire ++ w ∧ t'.wire = s'.wire ++ w) ∧
      (t.done = true → t'.code = t.code ∧ t'.result = t.result ∧ t'.subop = t.subop)

/-! ## Sequencer and bus (40, 41) -/

/-- QUIESCE takes one sequencer step for each count of QCNT, without traffic, and is then still QUIESCE with QCNT 0
(R53, R127). That one sequencer step is one clock cycle of QUIESCE is the model's choice (log 9). -/
def Obligations.QuiescenceCountsDown : Prop :=
  ∀ s : State, s.inReset = false → s.seq = .quiesce →
    drive (List.replicate s.qcnt (.seq none)) s = .next { s with qcnt := 0 }

/-- Where a transaction's end leads (R129, R131): a held command byte that was taken leads to RD_TX with the bus held and
QCNT as it was; in every other case the end leads to QUIESCE with the bus released and QCNT loaded. -/
def Obligations.TransactionEndsHeldOrQuiet : Prop :=
  ∀ (s t : State) (d : BusDraw), s.seq.inTransaction = true → seqStep (some d) s = .next t →
    (s.seq = .wrTx ∧ s.work.accKind = .read ∧ d.takesCommand s.latch.addr s.work.accCmdb →
      t.seq = .rdTx ∧ t.busHeld = true ∧ t.qcnt = s.qcnt) ∧
    (¬(s.seq = .wrTx ∧ s.work.accKind = .read ∧ d.takesCommand s.latch.addr s.work.accCmdb) →
      t.seq = .quiesce ∧ t.busHeld = false ∧ t.qcnt = s.params.qCycles)

/-- In a coherent state a transaction runs exactly in the transaction states; under any draw the sequencer's step ends it
with that transaction's traffic and BUS_HELD; it goes to L_ADDR, which is admissible (R73); it has the byte counts of R81;
and it starts with one of the two command bytes if it writes (R74). -/
def Obligations.TransactionsKeepTheirShape : Prop :=
  ∀ s : State, Coherent s →
    s.runningTx.isSome = s.seq.inTransaction ∧
    ∀ x, s.runningTx = some x →
      (∀ d, ∃ t, seqStep (some d) s = .next t ∧ t.wire = s.wire ++ (x.run s.busHeld d).wire ∧
        t.busHeld = (x.run s.busHeld d).held) ∧
      x.addr = s.latch.addr ∧ s.latch.addr ∈ s.params.legalAddrs ∧
      ((s.seq = .wrTx ∧ s.work.accKind = .read ∧
          ∃ c, x = .write s.latch.addr [c] false ∧ (c = s.params.cmdTemp ∨ c = s.params.cmdConfig)) ∨
        (s.seq = .wrTx ∧ s.work.accKind = .write ∧
          ∃ c v, x = .write s.latch.addr [c, v] true ∧ (c = s.params.cmdTemp ∨ c = s.params.cmdConfig)) ∨
        (s.seq = .rdTx ∧ x = .read s.latch.addr 1 true) ∨
        (s.seq = .probeRd ∧ x = .read s.latch.addr s.params.probeLen true))

/-- A step changes the wire only if the sequencer was in a transaction state or was leaving QUIESCE, which logs the
interval and no traffic (R133, R154); and the wire only grows. Logging an interval when it ends is the model's choice
(log 6). -/
def Obligations.TrafficOnlyInTransactions : Prop :=
  ∀ s t : State, step s = .next t →
    ∃ w, t.wire = s.wire ++ w ∧
      (w = [] ∨ s.seq.inTransaction = true ∨ (s.seq = .quiesce ∧ w = [.quiet]))

/-- A write transaction succeeds exactly when every byte, the address byte `{a, 0}` (R13) being the first, is acknowledged
and no other cause fails it: a byte that is not acknowledged fails it (R123), and so does a draw broken at any position the
transaction has, among them the one after its last byte (R122, R126; which positions it has is the model's choice, log 5).
A failure releases the bus, and a success holds it exactly when no STOP was asked for (R122). -/
def Obligations.WriteSucceedsWhenAcknowledged : Prop :=
  ∀ (a : BusAddr) (bytes : List Byte) (stop : Bool) (d : BusDraw),
    let r := busWrite a bytes stop d
    ((∀ k, d.brokenAt = some k → bytes.length + 1 < k) →
      r.wire.take 2 = [.start, .byte (a ++ 0#1)] ∧
      ((∀ k, d.nackAt = some k → bytes.length < k) → r.outcome = .count bytes.length ∧ r.held = !stop)) ∧
    (∀ k, d.nackAt = some k → k ≤ bytes.length → r.outcome = .fail ∧ r.held = false) ∧
    (∀ k, d.brokenAt = some k → k ≤ bytes.length + 1 → r.outcome = .fail ∧ r.held = false)

/-- The traffic of a write (R122): START, each byte with its acknowledgement, and STOP if asked for; a byte that is not
acknowledged is the last, and STOP follows it whatever `stop` was. -/
def Obligations.WriteTraffic : Prop :=
  ∀ (a : BusAddr) (bytes : List Byte) (stop : Bool) (d : BusDraw), d.brokenAt = none →
    let sent := addrByte a false :: bytes
    ((∀ k, d.nackAt = some k → bytes.length < k) →
      (busWrite a bytes stop d).wire =
        .start :: (takenBytes sent ++ stopWhen stop)) ∧
    (∀ k b, d.nackAt = some k → sent[k]? = some b →
      (busWrite a bytes stop d).wire = .start :: (takenBytes (sent.take k) ++ refusedByte b))

/-- A read transaction (R124, R125): it fails when the address byte `{a, 1}` (R13) is not acknowledged, or when a draw is
broken at any position the transaction has, among them the one after its last byte (R125, R126; which positions it has is
the model's choice, log 5), and no target refuses a data byte; else it returns exactly the bytes asked for, the last
answered with NACK; it opens with a repeated START when the bus is held, and never leaves it held. -/
def Obligations.ReadTransaction : Prop :=
  ∀ (a : BusAddr) (n : Fin 2) (held : Bool) (d : BusDraw),
    let r := busRead a n true held d
    let opening := if held then Wire.restart else Wire.start
    r.held = false ∧
    (d.nackAt = some 0 → r.outcome = .fail) ∧
    (∀ k, d.brokenAt = some k → k ≤ n.val + 1 → r.outcome = .fail) ∧
    ((∀ k, d.brokenAt = some k → n.val + 1 < k) →
      (d.nackAt = some 0 → r.wire = opening :: refusedByte (a ++ 1#1)) ∧
      (d.nackAt ≠ some 0 → n = 0 → r.outcome = .bytes [] ∧ r.wire = [opening, .byte (a ++ 1#1), .ack, .stop]) ∧
      (d.nackAt ≠ some 0 → n = 1 →
        r.outcome = .bytes [d.data] ∧
        r.wire = [opening, .byte (a ++ 1#1), .ack, .byte d.data, .nack, .stop]))

/-- A transaction the environment never completes hangs the command (R128, R218): with no outcome, any number of steps
keeps the sequencer in its transaction state with BUSY = 1, DONE and the running command as they were, and nothing on the
wire, whatever the host does. That an unfinished transaction has put nothing in the wire trace is the model's choice
(log 6). -/
def Obligations.HungTransactionNeverEnds : Prop :=
  ∀ (n : Nat) (s : State), s.inReset = false → s.done = false → s.seq.inTransaction = true →
    (∀ x ∈ s.inputs, x.silent = true) →
    ∃ t, Host.Core.run Sys2Proof.core n s = .next t ∧
      t.seq = s.seq ∧ t.busy = true ∧ t.done = false ∧ t.cmd = s.cmd ∧ t.latch = s.latch ∧ t.work = s.work ∧
      t.wire = s.wire ∧ t.result = s.result

/-- Every command ends when every transaction it issues ends (R151, R152): from a coherent state with a command running,
sequencer steps that each bring an outcome reach IDLE with DONE = 1 within a bound of the quiescence length, which counts
one step per cycle of QCNT (the model's choice, log 9). -/
def Obligations.CommandsTerminate : Prop :=
  ∀ (s : State) (ds : List BusDraw), Coherent s → s.seq ≠ .idle → 2 * s.params.qCycles + 8 ≤ ds.length →
    ∃ k t, k ≤ 2 * s.params.qCycles + 8 ∧ drive ((ds.take k).map answer) s = .next t ∧
      t.seq = .idle ∧ t.done = true

/-! ## Coherence -/

/-- The machine right after reset is coherent. It holds because of the model's default parameters and its empty target
list (logs 13, 14 and 16). -/
def Obligations.ResetIsCoherent : Prop := Coherent State.reset

/-- Every step keeps a coherent state coherent. -/
def Obligations.StepsKeepCoherence : Prop :=
  ∀ s t : State, Coherent s → step s = .next t → Coherent t

/-- No step of a coherent state faults: the preconditions of the bus engine always hold (R132) and PostAccess always has
its case (R148, R200). The faults themselves are the model's (log 8). -/
def Obligations.CoherentStatesNeverFault : Prop :=
  ∀ (s : State) (r : Fault), Coherent s → step s ≠ .fault r

/-- The only steps without a meaning are host accesses that the port does not carry (R77) or that come while reset is
asserted (R240; log 11). -/
def Obligations.OnlyHostAccessesRefused : Prop :=
  ∀ (s : State) (r : Refusal), step s = .refused r →
    ∃ x rest a, s.inputs = x :: rest ∧ x.access = some a ∧
      ((r = .hostAccessInReset ∧ x = .host a ∧ s.inReset = true) ∨
        (r = .hostAccessNotWord ∧ a.carried = false))

/-! ## Host registers (10, 20) -/

/-- The layout of STATUS (R36, R78): its numeric value, with the code numbers of R201 and the state numbers of R50, so every
reserved bit reads 0. -/
def Obligations.StatusLayout : Prop :=
  ∀ s : State,
    s.statusWord.toNat =
      (if s.seq = .idle then 0 else 1) + 2 * s.done.toNat + 4 * s.initDone.toNat + 8 * s.rejected.toNat +
        16 *
          (match s.code with
            | .ok => 0
            | .failWrite => 1
            | .failRead => 2
            | .notReady => 3
            | .illegalCmd => 4
            | .illegalAddr => 5
            | .notInit => 6
            | .alreadyInit => 7) +
        256 * s.subop.toNat +
        4096 *
          (match s.seq with
            | .idle => 0
            | .cfg => 1
            | .probeRd => 2
            | .wrTx => 3
            | .rdTx => 4
            | .quiesce => 5
            | .check => 6)

/-- HostRead (R78): each aligned offset answers with its register, 0x10 to 0x1C with 0 (R47), and no register, no part of
the running command and no wire changes. That the value returned stands in hostRdata is the model's choice (log 7). -/
def Obligations.HostReadsRegisters : Prop :=
  ∀ (s : State) (off : HostOff) (rest : List Input),
    s.inReset = false → s.inputs = .host (.read .word off) :: rest → off.toNat % 4 = 0 →
    step s = .next
      { s with
        inputs := rest
        hostRdata :=
          if off.toNat = 0x00 then s.cmd
          else if off.toNat = 0x04 then s.statusWord
          else if off.toNat = 0x08 then s.offset
          else if off.toNat = 0x0C then s.result
          else 0#32 }

/-- HostWrite (R79): a write to CMD is CmdWrite, a write to STATUS clears DONE and REJECTED where its bits say and never
sets a bit, OFFSET is stored, RESULT and the unmapped words ignore the write. -/
def Obligations.HostWritesRegisters : Prop :=
  ∀ (s : State) (off : HostOff) (v : Word) (rest : List Input),
    s.inReset = false → s.inputs = .host (.write .word off v) :: rest → off.toNat % 4 = 0 →
    step s =
      if off.toNat = 0x00 then cmdWrite v { s with inputs := rest }
      else if off.toNat = 0x04 then
        .next
          { s with
            inputs := rest
            done := if v.getLsbD 1 then false else s.done
            rejected := if v.getLsbD 3 then false else s.rejected }
      else if off.toNat = 0x08 then .next { s with inputs := rest, offset := v }
      else .next { s with inputs := rest }

/-- An access that is not a whole aligned word has no step (R77). -/
def Obligations.NarrowAccessesRefused : Prop :=
  ∀ (s : State) (size : AccessSize) (off : HostOff) (v : Word) (rest : List Input),
    s.inReset = false → size ≠ .word ∨ off.toNat % 4 ≠ 0 →
    (s.inputs = .host (.read size off) :: rest → step s = .refused .hostAccessNotWord) ∧
    (s.inputs = .host (.write size off v) :: rest → step s = .refused .hostAccessNotWord)

/-- Host accesses do not disturb a running command (R87, R153, R250): taking the sequencer's step after any host access
gives the same sequencer state, latches, working registers, bus and outcome as taking it without the access. -/
def Obligations.HostAccessesDoNotDisturb : Prop :=
  ∀ (s h t : State) (a : HostAccess) (d : Option BusDraw),
    s.seq ≠ .idle → s.done = false → hostStep a s = .next h → seqStep d s = .next t →
    ∃ t', seqStep d h = .next t' ∧
      t'.seq = t.seq ∧ t'.latch = t.latch ∧ t'.work = t.work ∧ t'.wire = t.wire ∧ t'.busHeld = t.busHeld ∧
      t'.qcnt = t.qcnt ∧ t'.done = t.done ∧ t'.code = t.code ∧ t'.result = t.result ∧ t'.subop = t.subop ∧
      t'.cmd = t.cmd ∧ t'.initDone = t.initDone ∧ t'.busClk = t.busClk ∧ t'.busPullup = t.busPullup

/-- RESULT, CODE and SUBOP change only in the step that completes a command, together with DONE and BUSY (R41, R42, R46,
R86), or in a reset. -/
def Obligations.OutcomePublishedAtomically : Prop :=
  ∀ s t : State, step s = .next t →
    t.result ≠ s.result ∨ t.code ≠ s.code ∨ t.subop ≠ s.subop →
    (t.done = true ∧ t.busy = false) ∨ (∃ x rest, s.inputs = x :: rest ∧ x.assertsReset = true)

/-- STATUS.INIT once set stays set, and the bus configuration with it, until reset (R39, R191). -/
def Obligations.InitStaysUntilReset : Prop :=
  ∀ s t : State, Coherent s → step s = .next t → s.initDone = true →
    (t.initDone = true ∧ t.busClk = s.busClk ∧ t.busPullup = s.busPullup) ∨
    (∃ x rest, s.inputs = x :: rest ∧ x.assertsReset = true)

/-- STATUS.REJECTED is sticky (R40): only a host write to STATUS with bit 3 = 1, or reset, clears it. -/
def Obligations.RejectedIsSticky : Prop :=
  ∀ s t : State, step s = .next t → s.rejected = true → t.rejected = false →
    ∃ x rest, s.inputs = x :: rest ∧
      (x.assertsReset = true ∨
        ∃ off v, x.access = some (.write .word off v) ∧ off.toNat = 0x04 ∧ v.getLsbD 3 = true)

/-- OFFSET changes only by a host write of its new value, or by reset (R45). -/
def Obligations.OffsetWrittenByHostOnly : Prop :=
  ∀ s t : State, step s = .next t → t.offset ≠ s.offset →
    ∃ x rest, s.inputs = x :: rest ∧
      (x.assertsReset = true ∨ ∃ off, x.access = some (.write .word off t.offset) ∧ off.toNat = 0x08)

/-! ## Reset and same-cycle events (20, 70) -/

/-- R241: asserting reset in any state sets every piece of controller state to its reset value in one step, and the
controller then waits in IDLE: whatever the environment answers, the sequencer's step changes nothing. -/
def Obligations.ResetRestoresEveryRegister : Prop :=
  ∀ (s : State) (rest : List Input), s.inputs = .rst true :: rest →
    ∃ t, step s = .next t ∧
      t.cmd = 0#32 ∧ t.offset = 0#32 ∧ t.result = 0#32 ∧ t.statusWord = 0#32 ∧
      t.latch = { op := 0#4, reg := false, en := false, addr := 0#7, val := 0#8, off := 0#32 } ∧
      t.work =
        { accKind := .read, accCmdb := 0#8, accData := 0#8, stage := .config, accOk := false, accFail := false,
          rxb := 0#8 } ∧
      t.seq = .idle ∧ t.busClk = none ∧ t.busPullup = false ∧ t.busHeld = false ∧ t.qcnt = 0 ∧
      t.linesReleased = true ∧ ∀ d, seqStep d t = .next t

/-- While reset is asserted the controller takes no step and accepts no host access (R240). That a step then leaves the
state as it is, is the model's choice (log 13). -/
def Obligations.AssertedResetHoldsController : Prop :=
  ∀ (s : State) (rest : List Input), s.inReset = true →
    (∀ d, s.inputs = .seq d :: rest → step s = .next { s with inputs := rest }) ∧
    (∀ a, s.inputs = .host a :: rest → step s = .refused .hostAccessInReset) ∧
    (s.inputs = [] → step s = .next s)

/-- The priorities of one clock cycle (R92): DONE ends at 1 when `Complete` and a STATUS clear meet, a CMD write in the
cycle of `Complete` is rejected, and reset wins over everything. How the agents of one cycle are composed beyond these
priorities is the model's choice (log 12). -/
def Obligations.SameCyclePriorities : Prop :=
  ∀ (s t : State) (v : Word) (d : Option BusDraw) (a : Option HostAccess),
    (s.seq ≠ .idle → seqStep d { s with inReset := false } = .next t → t.done = true → t.seq = .idle →
      s.done = false →
      (∃ u, cycleInput false (some (.write .word 0x04#5 v)) d s = .next u ∧ u.done = true ∧ u.seq = .idle) ∧
      (∃ u, cycleInput false (some (.write .word 0x00#5 v)) d s = .next u ∧
        u.rejected = true ∧ u.done = true ∧ u.cmd = s.cmd ∧ u.result = t.result)) ∧
    cycleInput true a d s = .next { s.resetController with inReset := true }

/-! ## The reference target (60) -/

/-- The reference target is one environment (R130): its step is the sequencer's step under some outcome, with only the
targets changed besides. The list of targets is the model's (log 14). -/
def Obligations.ReferenceTargetIsADraw : Prop :=
  ∀ s : State, ∃ (d : Option BusDraw) (l : List (BusAddr × Target)), refStep s = seqStep d { s with targets := l }

/-- PROBE changes no target, and on the reference target RESULT says whether one is present (R170, R177); the list of
targets is the model's (log 14). -/
def Obligations.ProbeIsPure : Prop :=
  ∀ (s : State) (a : BusAddr), ReadyFor (.probe a) s → targetsRising s.targets = true →
    ∃ t, drive (.host (issueAccess (.probe a)) :: .seqRef :: quietScript s.params) s = .next t ∧
      (∀ b, targetAt t.targets b = targetAt s.targets b) ∧ t.code = .ok ∧ t.done = true ∧
      t.result =
        match targetAt s.targets a with
        | some g => if g.present then 1#32 else 0#32
        | none => 0#32

/-- Standby round trip on a present reference target (R179): after SET_STANDBY with EN the configuration byte READ_CONFIG
returns has bit 7 = EN, and on entering standby bit 6 = 0 (R223, R224); bits 5:0 are 0 (R220). The list of targets is the
model's (log 14). -/
def Obligations.StandbyReadBack : Prop :=
  ∀ (s : State) (a : BusAddr) (e : Bool) (g : Target),
    ReadyFor (.setStandby a e) s → s.params.cmdTemp ≠ s.params.cmdConfig →
    targetsRising s.targets = true → targetAt s.targets a = some g → g.present = true →
    ∃ t,
      drive (standbyReadBackScript s.params a e) s = .next t ∧
      t.code = .ok ∧ t.done = true ∧ t.result.getLsbD 7 = e ∧
      (e = true → t.result.getLsbD 6 = false) ∧ (∀ k < 6, t.result.getLsbD k = false)

/-- A convert step sets TEMP and DATA_RDY of a present target that is not in standby and leaves every other target and
the whole controller alone (R225). That the step of a target it is not enabled on changes nothing is the model's choice
(log 14). -/
def Obligations.ConversionSetsReady : Prop :=
  ∀ (s : State) (a : BusAddr) (b : Byte) (g : Target) (rest : List Input),
    s.inputs = .convert a b :: rest → targetsRising s.targets = true → targetAt s.targets a = some g →
    ∃ l, step s = .next { s with inputs := rest, targets := l } ∧
      targetAt l a =
        some (if g.present = true ∧ g.shdn = false then { g with temp := b, dataRdy := true } else g) ∧
      (∀ c, c ≠ a → targetAt l c = targetAt s.targets c)
end

