-- ==== Sys2Proof/Laws/Decode.lean ====
section
/-! SUPPORT. The fields of a laid-out word (R101), the row of R103 it hits, and the latches a command's word gives (R48). -/

namespace Sys2Proof.Laws

open Sys2Proof.Machine

/-- A bit of a one-bit field. -/
theorem getLsbD_bit1 (b : Bool) (i : Nat) : (bit1 b).getLsbD i = (b && decide (i = 0)) := by
  unfold bit1; rw [BitVec.getLsbD_ofBool]; cases b <;> simp [Bool.and_comm]

/-- Every bit of a laid-out word, by its place in the pattern of R101. -/
theorem getLsbD_layWord (v : Byte) (a : BusAddr) (e g : Bool) (o : BitVec 4) (i : Nat) :
    (layWord v a e g o).getLsbD i =
      if i < 4 then o.getLsbD i
      else if i = 4 then g
      else if i = 5 then e
      else if i < 8 then false
      else if i < 15 then a.getLsbD (i - 8)
      else if i = 15 then false
      else if i < 24 then v.getLsbD (i - 16)
      else false := by
  unfold layWord
  simp only [BitVec.getLsbD_append, getLsbD_bit1, BitVec.getLsbD_zero]
  by_cases hi : i < 32
  · interval_cases i <;> simp
  · have h1 : ¬ i < 4 := by omega
    have h2 : i ≠ 4 := by omega
    have h3 : i ≠ 5 := by omega
    have h4 : ¬ i < 8 := by omega
    have h5 : ¬ i < 15 := by omega
    have h6 : i ≠ 15 := by omega
    have h7 : ¬ i < 24 := by omega
    have h8 : ¬ i - 4 < 1 := by omega
    have h9 : ¬ i - 4 - 1 < 1 := by omega
    have h10 : ¬ i - 4 - 1 - 1 < 2 := by omega
    have h11 : ¬ i - 4 - 1 - 1 - 2 < 7 := by omega
    have h12 : ¬ i - 4 - 1 - 1 - 2 - 7 < 1 := by omega
    have h13 : ¬ i - 4 - 1 - 1 - 2 - 7 - 1 < 8 := by omega
    simp [h1, h2, h3, h4, h5, h6, h7, h8, h9, h10, h11, h12, h13]

@[simp] theorem fieldOp_layWord (v : Byte) (a : BusAddr) (e g : Bool) (o : BitVec 4) :
    fieldOp (layWord v a e g o) = o := by
  apply BitVec.eq_of_getLsbD_eq
  intro i hi
  rw [fieldOp, BitVec.getLsbD_extractLsb', getLsbD_layWord]
  interval_cases i <;> simp

@[simp] theorem fieldReg_layWord (v : Byte) (a : BusAddr) (e g : Bool) (o : BitVec 4) :
    fieldReg (layWord v a e g o) = g := by rw [fieldReg, getLsbD_layWord]; rfl

@[simp] theorem fieldEn_layWord (v : Byte) (a : BusAddr) (e g : Bool) (o : BitVec 4) :
    fieldEn (layWord v a e g o) = e := by rw [fieldEn, getLsbD_layWord]; rfl

@[simp] theorem fieldAddr_layWord (v : Byte) (a : BusAddr) (e g : Bool) (o : BitVec 4) :
    fieldAddr (layWord v a e g o) = a := by
  apply BitVec.eq_of_getLsbD_eq
  intro i hi
  rw [fieldAddr, BitVec.getLsbD_extractLsb', getLsbD_layWord]
  interval_cases i <;> simp

@[simp] theorem fieldValue_layWord (v : Byte) (a : BusAddr) (e g : Bool) (o : BitVec 4) :
    fieldValue (layWord v a e g o) = v := by
  apply BitVec.eq_of_getLsbD_eq
  intro i hi
  rw [fieldValue, BitVec.getLsbD_extractLsb', getLsbD_layWord]
  interval_cases i <;> simp

/-- A row is hit exactly when the word agrees with the row's match wherever the mask is 1. -/
theorem hitsRow_iff (w : Word) (op : Opcode) :
    hitsRow w op = true ↔ ∀ i, i < 32 → (w.getLsbD i && (rowMask op).getLsbD i) = (rowMatch op).getLsbD i := by
  rw [hitsRow, beq_iff_eq, BitVec.eq_of_getLsbD_eq_iff]
  simp only [BitVec.getLsbD_and]

theorem hits_init : hitsRow (layWord 0#8 0#7 false false (opBits .init)) .init = true := by decide

theorem hits_probe (a : BusAddr) : hitsRow (layWord 0#8 a false false (opBits .probe)) .probe = true := by
  rw [hitsRow_iff]
  intro i hi
  rw [getLsbD_layWord]
  interval_cases i <;> simp [rowMask, rowMatch, opBits]

theorem hits_readConfig (a : BusAddr) : hitsRow (layWord 0#8 a false false (opBits .readConfig)) .readConfig = true := by
  rw [hitsRow_iff]
  intro i hi
  rw [getLsbD_layWord]
  interval_cases i <;> simp [rowMask, rowMatch, opBits]

theorem hits_readTemp (a : BusAddr) : hitsRow (layWord 0#8 a false false (opBits .readTemp)) .readTemp = true := by
  rw [hitsRow_iff]
  intro i hi
  rw [getLsbD_layWord]
  interval_cases i <;> simp [rowMask, rowMatch, opBits]

theorem hits_setStandby (a : BusAddr) (e : Bool) : hitsRow (layWord 0#8 a e false (opBits .setStandby)) .setStandby = true := by
  rw [hitsRow_iff]
  intro i hi
  rw [getLsbD_layWord]
  interval_cases i <;> simp [rowMask, rowMatch, opBits]

theorem hits_readReg (a : BusAddr) (g : Bool) : hitsRow (layWord 0#8 a false g (opBits .readReg)) .readReg = true := by
  rw [hitsRow_iff]
  intro i hi
  rw [getLsbD_layWord]
  interval_cases i <;> simp [rowMask, rowMatch, opBits]

theorem hits_writeReg (v : Byte) (a : BusAddr) (g : Bool) : hitsRow (layWord v a false g (opBits .writeReg)) .writeReg = true := by
  rw [hitsRow_iff]
  intro i hi
  rw [getLsbD_layWord]
  interval_cases i <;> simp [rowMask, rowMatch, opBits]

@[simp] theorem regOfBit_regBit (r : TargetReg) : regOfBit (regBit r) = r := by cases r <;> rfl

@[simp] theorem regBit_regOfBit (b : Bool) : regBit (regOfBit b) = b := by cases b <;> rfl

@[simp] theorem opOfBits_opBits (op : Opcode) : opOfBits (opBits op) = some op := by cases op <;> rfl

/-- The latches acceptance of a laid-out word writes (R48). -/
@[simp] theorem latchesOf_layWord (v : Byte) (a : BusAddr) (e g : Bool) (o : BitVec 4) (off : Word) :
    latchesOf (layWord v a e g o) off =
      { op := o, reg := g, en := e, addr := a, val := v, off := off } := by
  simp [latchesOf]

/-- A word that hits a row carries the row's opcode in its OP field (R103: the rows differ in OP). -/
theorem fieldOp_of_hitsRow {w : Word} {op : Opcode} (h : hitsRow w op = true) : fieldOp w = opBits op := by
  rw [hitsRow_iff] at h
  apply BitVec.eq_of_getLsbD_eq
  intro i hi
  rw [fieldOp, BitVec.getLsbD_extractLsb']
  have hb := h i (by omega)
  cases op <;> interval_cases i <;> simp_all [rowMask, rowMatch, opBits]

end Sys2Proof.Laws
end

