-- ==== Sys2Proof/Laws/State.lean ====
section
/-! SUPPORT. One lemma per field per update of State, each true by unfolding the update once. -/

namespace Sys2Proof.Laws

open Sys2Proof.Machine

@[simp] theorem reject_cmd (s : State) : s.reject.cmd = s.cmd := rfl
@[simp] theorem reject_done (s : State) : s.reject.done = s.done := rfl
@[simp] theorem reject_initDone (s : State) : s.reject.initDone = s.initDone := rfl
@[simp] theorem reject_rejected (s : State) : s.reject.rejected = true := rfl
@[simp] theorem reject_code (s : State) : s.reject.code = s.code := rfl
@[simp] theorem reject_subop (s : State) : s.reject.subop = s.subop := rfl
@[simp] theorem reject_offset (s : State) : s.reject.offset = s.offset := rfl
@[simp] theorem reject_result (s : State) : s.reject.result = s.result := rfl
@[simp] theorem reject_latch (s : State) : s.reject.latch = s.latch := rfl
@[simp] theorem reject_work (s : State) : s.reject.work = s.work := rfl
@[simp] theorem reject_seq (s : State) : s.reject.seq = s.seq := rfl
@[simp] theorem reject_busClk (s : State) : s.reject.busClk = s.busClk := rfl
@[simp] theorem reject_busPullup (s : State) : s.reject.busPullup = s.busPullup := rfl
@[simp] theorem reject_busHeld (s : State) : s.reject.busHeld = s.busHeld := rfl
@[simp] theorem reject_qcnt (s : State) : s.reject.qcnt = s.qcnt := rfl
@[simp] theorem reject_inReset (s : State) : s.reject.inReset = s.inReset := rfl
@[simp] theorem reject_params (s : State) : s.reject.params = s.params := rfl
@[simp] theorem reject_targets (s : State) : s.reject.targets = s.targets := rfl
@[simp] theorem reject_inputs (s : State) : s.reject.inputs = s.inputs := rfl
@[simp] theorem reject_hostRdata (s : State) : s.reject.hostRdata = s.hostRdata := rfl
@[simp] theorem reject_wire (s : State) : s.reject.wire = s.wire := rfl

@[simp] theorem accept_cmd (w : Word) (s : State) : (s.accept w).cmd = w := rfl
@[simp] theorem accept_done (w : Word) (s : State) : (s.accept w).done = false := rfl
@[simp] theorem accept_initDone (w : Word) (s : State) : (s.accept w).initDone = s.initDone := rfl
@[simp] theorem accept_rejected (w : Word) (s : State) : (s.accept w).rejected = s.rejected := rfl
@[simp] theorem accept_code (w : Word) (s : State) : (s.accept w).code = s.code := rfl
@[simp] theorem accept_subop (w : Word) (s : State) : (s.accept w).subop = s.subop := rfl
@[simp] theorem accept_offset (w : Word) (s : State) : (s.accept w).offset = s.offset := rfl
@[simp] theorem accept_result (w : Word) (s : State) : (s.accept w).result = s.result := rfl
@[simp] theorem accept_latch (w : Word) (s : State) : (s.accept w).latch = latchesOf w s.offset := rfl
@[simp] theorem accept_work (w : Word) (s : State) : (s.accept w).work = s.work := rfl
@[simp] theorem accept_seq (w : Word) (s : State) : (s.accept w).seq = s.seq := rfl
@[simp] theorem accept_busClk (w : Word) (s : State) : (s.accept w).busClk = s.busClk := rfl
@[simp] theorem accept_busPullup (w : Word) (s : State) : (s.accept w).busPullup = s.busPullup := rfl
@[simp] theorem accept_busHeld (w : Word) (s : State) : (s.accept w).busHeld = s.busHeld := rfl
@[simp] theorem accept_qcnt (w : Word) (s : State) : (s.accept w).qcnt = s.qcnt := rfl
@[simp] theorem accept_inReset (w : Word) (s : State) : (s.accept w).inReset = s.inReset := rfl
@[simp] theorem accept_params (w : Word) (s : State) : (s.accept w).params = s.params := rfl
@[simp] theorem accept_targets (w : Word) (s : State) : (s.accept w).targets = s.targets := rfl
@[simp] theorem accept_inputs (w : Word) (s : State) : (s.accept w).inputs = s.inputs := rfl
@[simp] theorem accept_hostRdata (w : Word) (s : State) : (s.accept w).hostRdata = s.hostRdata := rfl
@[simp] theorem accept_wire (w : Word) (s : State) : (s.accept w).wire = s.wire := rfl

@[simp] theorem complete_cmd (c : Code) (r : Word) (b : Bool) (s : State) : (s.complete c r b).cmd = s.cmd := rfl
@[simp] theorem complete_done (c : Code) (r : Word) (b : Bool) (s : State) : (s.complete c r b).done = true := rfl
@[simp] theorem complete_initDone (c : Code) (r : Word) (b : Bool) (s : State) : (s.complete c r b).initDone = s.initDone := rfl
@[simp] theorem complete_rejected (c : Code) (r : Word) (b : Bool) (s : State) : (s.complete c r b).rejected = s.rejected := rfl
@[simp] theorem complete_code (c : Code) (r : Word) (b : Bool) (s : State) : (s.complete c r b).code = c := rfl
@[simp] theorem complete_subop (c : Code) (r : Word) (b : Bool) (s : State) : (s.complete c r b).subop = b := rfl
@[simp] theorem complete_offset (c : Code) (r : Word) (b : Bool) (s : State) : (s.complete c r b).offset = s.offset := rfl
@[simp] theorem complete_result (c : Code) (r : Word) (b : Bool) (s : State) : (s.complete c r b).result = r := rfl
@[simp] theorem complete_latch (c : Code) (r : Word) (b : Bool) (s : State) : (s.complete c r b).latch = s.latch := rfl
@[simp] theorem complete_work (c : Code) (r : Word) (b : Bool) (s : State) : (s.complete c r b).work = s.work := rfl
@[simp] theorem complete_seq (c : Code) (r : Word) (b : Bool) (s : State) : (s.complete c r b).seq = .idle := rfl
@[simp] theorem complete_busClk (c : Code) (r : Word) (b : Bool) (s : State) : (s.complete c r b).busClk = s.busClk := rfl
@[simp] theorem complete_busPullup (c : Code) (r : Word) (b : Bool) (s : State) : (s.complete c r b).busPullup = s.busPullup := rfl
@[simp] theorem complete_busHeld (c : Code) (r : Word) (b : Bool) (s : State) : (s.complete c r b).busHeld = s.busHeld := rfl
@[simp] theorem complete_qcnt (c : Code) (r : Word) (b : Bool) (s : State) : (s.complete c r b).qcnt = s.qcnt := rfl
@[simp] theorem complete_inReset (c : Code) (r : Word) (b : Bool) (s : State) : (s.complete c r b).inReset = s.inReset := rfl
@[simp] theorem complete_params (c : Code) (r : Word) (b : Bool) (s : State) : (s.complete c r b).params = s.params := rfl
@[simp] theorem complete_targets (c : Code) (r : Word) (b : Bool) (s : State) : (s.complete c r b).targets = s.targets := rfl
@[simp] theorem complete_inputs (c : Code) (r : Word) (b : Bool) (s : State) : (s.complete c r b).inputs = s.inputs := rfl
@[simp] theorem complete_hostRdata (c : Code) (r : Word) (b : Bool) (s : State) : (s.complete c r b).hostRdata = s.hostRdata := rfl
@[simp] theorem complete_wire (c : Code) (r : Word) (b : Bool) (s : State) : (s.complete c r b).wire = s.wire := rfl

@[simp] theorem startRead_cmd (c : Byte) (s : State) : (s.startRead c).cmd = s.cmd := rfl
@[simp] theorem startRead_done (c : Byte) (s : State) : (s.startRead c).done = s.done := rfl
@[simp] theorem startRead_initDone (c : Byte) (s : State) : (s.startRead c).initDone = s.initDone := rfl
@[simp] theorem startRead_rejected (c : Byte) (s : State) : (s.startRead c).rejected = s.rejected := rfl
@[simp] theorem startRead_code (c : Byte) (s : State) : (s.startRead c).code = s.code := rfl
@[simp] theorem startRead_subop (c : Byte) (s : State) : (s.startRead c).subop = s.subop := rfl
@[simp] theorem startRead_offset (c : Byte) (s : State) : (s.startRead c).offset = s.offset := rfl
@[simp] theorem startRead_result (c : Byte) (s : State) : (s.startRead c).result = s.result := rfl
@[simp] theorem startRead_latch (c : Byte) (s : State) : (s.startRead c).latch = s.latch := rfl
@[simp] theorem startRead_work (c : Byte) (s : State) : (s.startRead c).work = { s.work with accKind := .read, accCmdb := c } := rfl
@[simp] theorem startRead_seq (c : Byte) (s : State) : (s.startRead c).seq = .wrTx := rfl
@[simp] theorem startRead_busClk (c : Byte) (s : State) : (s.startRead c).busClk = s.busClk := rfl
@[simp] theorem startRead_busPullup (c : Byte) (s : State) : (s.startRead c).busPullup = s.busPullup := rfl
@[simp] theorem startRead_busHeld (c : Byte) (s : State) : (s.startRead c).busHeld = s.busHeld := rfl
@[simp] theorem startRead_qcnt (c : Byte) (s : State) : (s.startRead c).qcnt = s.qcnt := rfl
@[simp] theorem startRead_inReset (c : Byte) (s : State) : (s.startRead c).inReset = s.inReset := rfl
@[simp] theorem startRead_params (c : Byte) (s : State) : (s.startRead c).params = s.params := rfl
@[simp] theorem startRead_targets (c : Byte) (s : State) : (s.startRead c).targets = s.targets := rfl
@[simp] theorem startRead_inputs (c : Byte) (s : State) : (s.startRead c).inputs = s.inputs := rfl
@[simp] theorem startRead_hostRdata (c : Byte) (s : State) : (s.startRead c).hostRdata = s.hostRdata := rfl
@[simp] theorem startRead_wire (c : Byte) (s : State) : (s.startRead c).wire = s.wire := rfl

@[simp] theorem startWrite_cmd (c d : Byte) (s : State) : (s.startWrite c d).cmd = s.cmd := rfl
@[simp] theorem startWrite_done (c d : Byte) (s : State) : (s.startWrite c d).done = s.done := rfl
@[simp] theorem startWrite_initDone (c d : Byte) (s : State) : (s.startWrite c d).initDone = s.initDone := rfl
@[simp] theorem startWrite_rejected (c d : Byte) (s : State) : (s.startWrite c d).rejected = s.rejected := rfl
@[simp] theorem startWrite_code (c d : Byte) (s : State) : (s.startWrite c d).code = s.code := rfl
@[simp] theorem startWrite_subop (c d : Byte) (s : State) : (s.startWrite c d).subop = s.subop := rfl
@[simp] theorem startWrite_offset (c d : Byte) (s : State) : (s.startWrite c d).offset = s.offset := rfl
@[simp] theorem startWrite_result (c d : Byte) (s : State) : (s.startWrite c d).result = s.result := rfl
@[simp] theorem startWrite_latch (c d : Byte) (s : State) : (s.startWrite c d).latch = s.latch := rfl
@[simp] theorem startWrite_work (c d : Byte) (s : State) : (s.startWrite c d).work = { s.work with accKind := .write, accCmdb := c, accData := d } := rfl
@[simp] theorem startWrite_seq (c d : Byte) (s : State) : (s.startWrite c d).seq = .wrTx := rfl
@[simp] theorem startWrite_busClk (c d : Byte) (s : State) : (s.startWrite c d).busClk = s.busClk := rfl
@[simp] theorem startWrite_busPullup (c d : Byte) (s : State) : (s.startWrite c d).busPullup = s.busPullup := rfl
@[simp] theorem startWrite_busHeld (c d : Byte) (s : State) : (s.startWrite c d).busHeld = s.busHeld := rfl
@[simp] theorem startWrite_qcnt (c d : Byte) (s : State) : (s.startWrite c d).qcnt = s.qcnt := rfl
@[simp] theorem startWrite_inReset (c d : Byte) (s : State) : (s.startWrite c d).inReset = s.inReset := rfl
@[simp] theorem startWrite_params (c d : Byte) (s : State) : (s.startWrite c d).params = s.params := rfl
@[simp] theorem startWrite_targets (c d : Byte) (s : State) : (s.startWrite c d).targets = s.targets := rfl
@[simp] theorem startWrite_inputs (c d : Byte) (s : State) : (s.startWrite c d).inputs = s.inputs := rfl
@[simp] theorem startWrite_hostRdata (c d : Byte) (s : State) : (s.startWrite c d).hostRdata = s.hostRdata := rfl
@[simp] theorem startWrite_wire (c d : Byte) (s : State) : (s.startWrite c d).wire = s.wire := rfl

@[simp] theorem setStage_cmd (g : Stage) (s : State) : (s.setStage g).cmd = s.cmd := rfl
@[simp] theorem setStage_done (g : Stage) (s : State) : (s.setStage g).done = s.done := rfl
@[simp] theorem setStage_initDone (g : Stage) (s : State) : (s.setStage g).initDone = s.initDone := rfl
@[simp] theorem setStage_rejected (g : Stage) (s : State) : (s.setStage g).rejected = s.rejected := rfl
@[simp] theorem setStage_code (g : Stage) (s : State) : (s.setStage g).code = s.code := rfl
@[simp] theorem setStage_subop (g : Stage) (s : State) : (s.setStage g).subop = s.subop := rfl
@[simp] theorem setStage_offset (g : Stage) (s : State) : (s.setStage g).offset = s.offset := rfl
@[simp] theorem setStage_result (g : Stage) (s : State) : (s.setStage g).result = s.result := rfl
@[simp] theorem setStage_latch (g : Stage) (s : State) : (s.setStage g).latch = s.latch := rfl
@[simp] theorem setStage_work (g : Stage) (s : State) : (s.setStage g).work = { s.work with stage := g } := rfl
@[simp] theorem setStage_seq (g : Stage) (s : State) : (s.setStage g).seq = s.seq := rfl
@[simp] theorem setStage_busClk (g : Stage) (s : State) : (s.setStage g).busClk = s.busClk := rfl
@[simp] theorem setStage_busPullup (g : Stage) (s : State) : (s.setStage g).busPullup = s.busPullup := rfl
@[simp] theorem setStage_busHeld (g : Stage) (s : State) : (s.setStage g).busHeld = s.busHeld := rfl
@[simp] theorem setStage_qcnt (g : Stage) (s : State) : (s.setStage g).qcnt = s.qcnt := rfl
@[simp] theorem setStage_inReset (g : Stage) (s : State) : (s.setStage g).inReset = s.inReset := rfl
@[simp] theorem setStage_params (g : Stage) (s : State) : (s.setStage g).params = s.params := rfl
@[simp] theorem setStage_targets (g : Stage) (s : State) : (s.setStage g).targets = s.targets := rfl
@[simp] theorem setStage_inputs (g : Stage) (s : State) : (s.setStage g).inputs = s.inputs := rfl
@[simp] theorem setStage_hostRdata (g : Stage) (s : State) : (s.setStage g).hostRdata = s.hostRdata := rfl
@[simp] theorem setStage_wire (g : Stage) (s : State) : (s.setStage g).wire = s.wire := rfl

@[simp] theorem enterQuiesce_cmd (s : State) : s.enterQuiesce.cmd = s.cmd := rfl
@[simp] theorem enterQuiesce_done (s : State) : s.enterQuiesce.done = s.done := rfl
@[simp] theorem enterQuiesce_initDone (s : State) : s.enterQuiesce.initDone = s.initDone := rfl
@[simp] theorem enterQuiesce_rejected (s : State) : s.enterQuiesce.rejected = s.rejected := rfl
@[simp] theorem enterQuiesce_code (s : State) : s.enterQuiesce.code = s.code := rfl
@[simp] theorem enterQuiesce_subop (s : State) : s.enterQuiesce.subop = s.subop := rfl
@[simp] theorem enterQuiesce_offset (s : State) : s.enterQuiesce.offset = s.offset := rfl
@[simp] theorem enterQuiesce_result (s : State) : s.enterQuiesce.result = s.result := rfl
@[simp] theorem enterQuiesce_latch (s : State) : s.enterQuiesce.latch = s.latch := rfl
@[simp] theorem enterQuiesce_work (s : State) : s.enterQuiesce.work = s.work := rfl
@[simp] theorem enterQuiesce_seq (s : State) : s.enterQuiesce.seq = .quiesce := rfl
@[simp] theorem enterQuiesce_busClk (s : State) : s.enterQuiesce.busClk = s.busClk := rfl
@[simp] theorem enterQuiesce_busPullup (s : State) : s.enterQuiesce.busPullup = s.busPullup := rfl
@[simp] theorem enterQuiesce_busHeld (s : State) : s.enterQuiesce.busHeld = s.busHeld := rfl
@[simp] theorem enterQuiesce_qcnt (s : State) : s.enterQuiesce.qcnt = s.params.qCycles := rfl
@[simp] theorem enterQuiesce_inReset (s : State) : s.enterQuiesce.inReset = s.inReset := rfl
@[simp] theorem enterQuiesce_params (s : State) : s.enterQuiesce.params = s.params := rfl
@[simp] theorem enterQuiesce_targets (s : State) : s.enterQuiesce.targets = s.targets := rfl
@[simp] theorem enterQuiesce_inputs (s : State) : s.enterQuiesce.inputs = s.inputs := rfl
@[simp] theorem enterQuiesce_hostRdata (s : State) : s.enterQuiesce.hostRdata = s.hostRdata := rfl
@[simp] theorem enterQuiesce_wire (s : State) : s.enterQuiesce.wire = s.wire := rfl

@[simp] theorem afterTx_cmd (r : TxResult) (s : State) : (s.afterTx r).cmd = s.cmd := rfl
@[simp] theorem afterTx_done (r : TxResult) (s : State) : (s.afterTx r).done = s.done := rfl
@[simp] theorem afterTx_initDone (r : TxResult) (s : State) : (s.afterTx r).initDone = s.initDone := rfl
@[simp] theorem afterTx_rejected (r : TxResult) (s : State) : (s.afterTx r).rejected = s.rejected := rfl
@[simp] theorem afterTx_code (r : TxResult) (s : State) : (s.afterTx r).code = s.code := rfl
@[simp] theorem afterTx_subop (r : TxResult) (s : State) : (s.afterTx r).subop = s.subop := rfl
@[simp] theorem afterTx_offset (r : TxResult) (s : State) : (s.afterTx r).offset = s.offset := rfl
@[simp] theorem afterTx_result (r : TxResult) (s : State) : (s.afterTx r).result = s.result := rfl
@[simp] theorem afterTx_latch (r : TxResult) (s : State) : (s.afterTx r).latch = s.latch := rfl
@[simp] theorem afterTx_work (r : TxResult) (s : State) : (s.afterTx r).work = s.work := rfl
@[simp] theorem afterTx_seq (r : TxResult) (s : State) : (s.afterTx r).seq = s.seq := rfl
@[simp] theorem afterTx_busClk (r : TxResult) (s : State) : (s.afterTx r).busClk = s.busClk := rfl
@[simp] theorem afterTx_busPullup (r : TxResult) (s : State) : (s.afterTx r).busPullup = s.busPullup := rfl
@[simp] theorem afterTx_busHeld (r : TxResult) (s : State) : (s.afterTx r).busHeld = r.held := rfl
@[simp] theorem afterTx_qcnt (r : TxResult) (s : State) : (s.afterTx r).qcnt = s.qcnt := rfl
@[simp] theorem afterTx_inReset (r : TxResult) (s : State) : (s.afterTx r).inReset = s.inReset := rfl
@[simp] theorem afterTx_params (r : TxResult) (s : State) : (s.afterTx r).params = s.params := rfl
@[simp] theorem afterTx_targets (r : TxResult) (s : State) : (s.afterTx r).targets = s.targets := rfl
@[simp] theorem afterTx_inputs (r : TxResult) (s : State) : (s.afterTx r).inputs = s.inputs := rfl
@[simp] theorem afterTx_hostRdata (r : TxResult) (s : State) : (s.afterTx r).hostRdata = s.hostRdata := rfl
@[simp] theorem afterTx_wire (r : TxResult) (s : State) : (s.afterTx r).wire = s.wire ++ r.wire := rfl

@[simp] theorem recordAccess_cmd (ok f : Bool) (s : State) : (s.recordAccess ok f).cmd = s.cmd := rfl
@[simp] theorem recordAccess_done (ok f : Bool) (s : State) : (s.recordAccess ok f).done = s.done := rfl
@[simp] theorem recordAccess_initDone (ok f : Bool) (s : State) : (s.recordAccess ok f).initDone = s.initDone := rfl
@[simp] theorem recordAccess_rejected (ok f : Bool) (s : State) : (s.recordAccess ok f).rejected = s.rejected := rfl
@[simp] theorem recordAccess_code (ok f : Bool) (s : State) : (s.recordAccess ok f).code = s.code := rfl
@[simp] theorem recordAccess_subop (ok f : Bool) (s : State) : (s.recordAccess ok f).subop = s.subop := rfl
@[simp] theorem recordAccess_offset (ok f : Bool) (s : State) : (s.recordAccess ok f).offset = s.offset := rfl
@[simp] theorem recordAccess_result (ok f : Bool) (s : State) : (s.recordAccess ok f).result = s.result := rfl
@[simp] theorem recordAccess_latch (ok f : Bool) (s : State) : (s.recordAccess ok f).latch = s.latch := rfl
@[simp] theorem recordAccess_work (ok f : Bool) (s : State) : (s.recordAccess ok f).work = { s.work with accOk := ok, accFail := f } := rfl
@[simp] theorem recordAccess_seq (ok f : Bool) (s : State) : (s.recordAccess ok f).seq = s.seq := rfl
@[simp] theorem recordAccess_busClk (ok f : Bool) (s : State) : (s.recordAccess ok f).busClk = s.busClk := rfl
@[simp] theorem recordAccess_busPullup (ok f : Bool) (s : State) : (s.recordAccess ok f).busPullup = s.busPullup := rfl
@[simp] theorem recordAccess_busHeld (ok f : Bool) (s : State) : (s.recordAccess ok f).busHeld = s.busHeld := rfl
@[simp] theorem recordAccess_qcnt (ok f : Bool) (s : State) : (s.recordAccess ok f).qcnt = s.qcnt := rfl
@[simp] theorem recordAccess_inReset (ok f : Bool) (s : State) : (s.recordAccess ok f).inReset = s.inReset := rfl
@[simp] theorem recordAccess_params (ok f : Bool) (s : State) : (s.recordAccess ok f).params = s.params := rfl
@[simp] theorem recordAccess_targets (ok f : Bool) (s : State) : (s.recordAccess ok f).targets = s.targets := rfl
@[simp] theorem recordAccess_inputs (ok f : Bool) (s : State) : (s.recordAccess ok f).inputs = s.inputs := rfl
@[simp] theorem recordAccess_hostRdata (ok f : Bool) (s : State) : (s.recordAccess ok f).hostRdata = s.hostRdata := rfl
@[simp] theorem recordAccess_wire (ok f : Bool) (s : State) : (s.recordAccess ok f).wire = s.wire := rfl

@[simp] theorem recordByte_cmd (b : Byte) (s : State) : (s.recordByte b).cmd = s.cmd := rfl
@[simp] theorem recordByte_done (b : Byte) (s : State) : (s.recordByte b).done = s.done := rfl
@[simp] theorem recordByte_initDone (b : Byte) (s : State) : (s.recordByte b).initDone = s.initDone := rfl
@[simp] theorem recordByte_rejected (b : Byte) (s : State) : (s.recordByte b).rejected = s.rejected := rfl
@[simp] theorem recordByte_code (b : Byte) (s : State) : (s.recordByte b).code = s.code := rfl
@[simp] theorem recordByte_subop (b : Byte) (s : State) : (s.recordByte b).subop = s.subop := rfl
@[simp] theorem recordByte_offset (b : Byte) (s : State) : (s.recordByte b).offset = s.offset := rfl
@[simp] theorem recordByte_result (b : Byte) (s : State) : (s.recordByte b).result = s.result := rfl
@[simp] theorem recordByte_latch (b : Byte) (s : State) : (s.recordByte b).latch = s.latch := rfl
@[simp] theorem recordByte_work (b : Byte) (s : State) : (s.recordByte b).work = { s.work with rxb := b, accOk := true } := rfl
@[simp] theorem recordByte_seq (b : Byte) (s : State) : (s.recordByte b).seq = s.seq := rfl
@[simp] theorem recordByte_busClk (b : Byte) (s : State) : (s.recordByte b).busClk = s.busClk := rfl
@[simp] theorem recordByte_busPullup (b : Byte) (s : State) : (s.recordByte b).busPullup = s.busPullup := rfl
@[simp] theorem recordByte_busHeld (b : Byte) (s : State) : (s.recordByte b).busHeld = s.busHeld := rfl
@[simp] theorem recordByte_qcnt (b : Byte) (s : State) : (s.recordByte b).qcnt = s.qcnt := rfl
@[simp] theorem recordByte_inReset (b : Byte) (s : State) : (s.recordByte b).inReset = s.inReset := rfl
@[simp] theorem recordByte_params (b : Byte) (s : State) : (s.recordByte b).params = s.params := rfl
@[simp] theorem recordByte_targets (b : Byte) (s : State) : (s.recordByte b).targets = s.targets := rfl
@[simp] theorem recordByte_inputs (b : Byte) (s : State) : (s.recordByte b).inputs = s.inputs := rfl
@[simp] theorem recordByte_hostRdata (b : Byte) (s : State) : (s.recordByte b).hostRdata = s.hostRdata := rfl
@[simp] theorem recordByte_wire (b : Byte) (s : State) : (s.recordByte b).wire = s.wire := rfl

@[simp] theorem logQuiet_cmd (s : State) : s.logQuiet.cmd = s.cmd := rfl
@[simp] theorem logQuiet_done (s : State) : s.logQuiet.done = s.done := rfl
@[simp] theorem logQuiet_initDone (s : State) : s.logQuiet.initDone = s.initDone := rfl
@[simp] theorem logQuiet_rejected (s : State) : s.logQuiet.rejected = s.rejected := rfl
@[simp] theorem logQuiet_code (s : State) : s.logQuiet.code = s.code := rfl
@[simp] theorem logQuiet_subop (s : State) : s.logQuiet.subop = s.subop := rfl
@[simp] theorem logQuiet_offset (s : State) : s.logQuiet.offset = s.offset := rfl
@[simp] theorem logQuiet_result (s : State) : s.logQuiet.result = s.result := rfl
@[simp] theorem logQuiet_latch (s : State) : s.logQuiet.latch = s.latch := rfl
@[simp] theorem logQuiet_work (s : State) : s.logQuiet.work = s.work := rfl
@[simp] theorem logQuiet_seq (s : State) : s.logQuiet.seq = s.seq := rfl
@[simp] theorem logQuiet_busClk (s : State) : s.logQuiet.busClk = s.busClk := rfl
@[simp] theorem logQuiet_busPullup (s : State) : s.logQuiet.busPullup = s.busPullup := rfl
@[simp] theorem logQuiet_busHeld (s : State) : s.logQuiet.busHeld = s.busHeld := rfl
@[simp] theorem logQuiet_qcnt (s : State) : s.logQuiet.qcnt = s.qcnt := rfl
@[simp] theorem logQuiet_inReset (s : State) : s.logQuiet.inReset = s.inReset := rfl
@[simp] theorem logQuiet_params (s : State) : s.logQuiet.params = s.params := rfl
@[simp] theorem logQuiet_targets (s : State) : s.logQuiet.targets = s.targets := rfl
@[simp] theorem logQuiet_inputs (s : State) : s.logQuiet.inputs = s.inputs := rfl
@[simp] theorem logQuiet_hostRdata (s : State) : s.logQuiet.hostRdata = s.hostRdata := rfl
@[simp] theorem logQuiet_wire (s : State) : s.logQuiet.wire = s.wire ++ [.quiet] := rfl

@[simp] theorem configureBus_cmd (s : State) : s.configureBus.cmd = s.cmd := rfl
@[simp] theorem configureBus_done (s : State) : s.configureBus.done = s.done := rfl
@[simp] theorem configureBus_initDone (s : State) : s.configureBus.initDone = true := rfl
@[simp] theorem configureBus_rejected (s : State) : s.configureBus.rejected = s.rejected := rfl
@[simp] theorem configureBus_code (s : State) : s.configureBus.code = s.code := rfl
@[simp] theorem configureBus_subop (s : State) : s.configureBus.subop = s.subop := rfl
@[simp] theorem configureBus_offset (s : State) : s.configureBus.offset = s.offset := rfl
@[simp] theorem configureBus_result (s : State) : s.configureBus.result = s.result := rfl
@[simp] theorem configureBus_latch (s : State) : s.configureBus.latch = s.latch := rfl
@[simp] theorem configureBus_work (s : State) : s.configureBus.work = s.work := rfl
@[simp] theorem configureBus_seq (s : State) : s.configureBus.seq = s.seq := rfl
@[simp] theorem configureBus_busClk (s : State) : s.configureBus.busClk = some s.params.sclHz := rfl
@[simp] theorem configureBus_busPullup (s : State) : s.configureBus.busPullup = true := rfl
@[simp] theorem configureBus_busHeld (s : State) : s.configureBus.busHeld = s.busHeld := rfl
@[simp] theorem configureBus_qcnt (s : State) : s.configureBus.qcnt = s.qcnt := rfl
@[simp] theorem configureBus_inReset (s : State) : s.configureBus.inReset = s.inReset := rfl
@[simp] theorem configureBus_params (s : State) : s.configureBus.params = s.params := rfl
@[simp] theorem configureBus_targets (s : State) : s.configureBus.targets = s.targets := rfl
@[simp] theorem configureBus_inputs (s : State) : s.configureBus.inputs = s.inputs := rfl
@[simp] theorem configureBus_hostRdata (s : State) : s.configureBus.hostRdata = s.hostRdata := rfl
@[simp] theorem configureBus_wire (s : State) : s.configureBus.wire = s.wire := rfl

@[simp] theorem clearStatus_cmd (v : Word) (s : State) : (s.clearStatus v).cmd = s.cmd := rfl
@[simp] theorem clearStatus_done (v : Word) (s : State) : (s.clearStatus v).done = (s.done && !v.getLsbD 1) := rfl
@[simp] theorem clearStatus_initDone (v : Word) (s : State) : (s.clearStatus v).initDone = s.initDone := rfl
@[simp] theorem clearStatus_rejected (v : Word) (s : State) : (s.clearStatus v).rejected = (s.rejected && !v.getLsbD 3) := rfl
@[simp] theorem clearStatus_code (v : Word) (s : State) : (s.clearStatus v).code = s.code := rfl
@[simp] theorem clearStatus_subop (v : Word) (s : State) : (s.clearStatus v).subop = s.subop := rfl
@[simp] theorem clearStatus_offset (v : Word) (s : State) : (s.clearStatus v).offset = s.offset := rfl
@[simp] theorem clearStatus_result (v : Word) (s : State) : (s.clearStatus v).result = s.result := rfl
@[simp] theorem clearStatus_latch (v : Word) (s : State) : (s.clearStatus v).latch = s.latch := rfl
@[simp] theorem clearStatus_work (v : Word) (s : State) : (s.clearStatus v).work = s.work := rfl
@[simp] theorem clearStatus_seq (v : Word) (s : State) : (s.clearStatus v).seq = s.seq := rfl
@[simp] theorem clearStatus_busClk (v : Word) (s : State) : (s.clearStatus v).busClk = s.busClk := rfl
@[simp] theorem clearStatus_busPullup (v : Word) (s : State) : (s.clearStatus v).busPullup = s.busPullup := rfl
@[simp] theorem clearStatus_busHeld (v : Word) (s : State) : (s.clearStatus v).busHeld = s.busHeld := rfl
@[simp] theorem clearStatus_qcnt (v : Word) (s : State) : (s.clearStatus v).qcnt = s.qcnt := rfl
@[simp] theorem clearStatus_inReset (v : Word) (s : State) : (s.clearStatus v).inReset = s.inReset := rfl
@[simp] theorem clearStatus_params (v : Word) (s : State) : (s.clearStatus v).params = s.params := rfl
@[simp] theorem clearStatus_targets (v : Word) (s : State) : (s.clearStatus v).targets = s.targets := rfl
@[simp] theorem clearStatus_inputs (v : Word) (s : State) : (s.clearStatus v).inputs = s.inputs := rfl
@[simp] theorem clearStatus_hostRdata (v : Word) (s : State) : (s.clearStatus v).hostRdata = s.hostRdata := rfl
@[simp] theorem clearStatus_wire (v : Word) (s : State) : (s.clearStatus v).wire = s.wire := rfl

@[simp] theorem resetController_cmd (s : State) : s.resetController.cmd = 0#32 := rfl
@[simp] theorem resetController_done (s : State) : s.resetController.done = false := rfl
@[simp] theorem resetController_initDone (s : State) : s.resetController.initDone = false := rfl
@[simp] theorem resetController_rejected (s : State) : s.resetController.rejected = false := rfl
@[simp] theorem resetController_code (s : State) : s.resetController.code = .ok := rfl
@[simp] theorem resetController_subop (s : State) : s.resetController.subop = false := rfl
@[simp] theorem resetController_offset (s : State) : s.resetController.offset = 0#32 := rfl
@[simp] theorem resetController_result (s : State) : s.resetController.result = 0#32 := rfl
@[simp] theorem resetController_latch (s : State) : s.resetController.latch = Latches.reset := rfl
@[simp] theorem resetController_work (s : State) : s.resetController.work = Working.reset := rfl
@[simp] theorem resetController_seq (s : State) : s.resetController.seq = .idle := rfl
@[simp] theorem resetController_busClk (s : State) : s.resetController.busClk = none := rfl
@[simp] theorem resetController_busPullup (s : State) : s.resetController.busPullup = false := rfl
@[simp] theorem resetController_busHeld (s : State) : s.resetController.busHeld = false := rfl
@[simp] theorem resetController_qcnt (s : State) : s.resetController.qcnt = 0 := rfl
@[simp] theorem resetController_inReset (s : State) : s.resetController.inReset = s.inReset := rfl
@[simp] theorem resetController_params (s : State) : s.resetController.params = s.params := rfl
@[simp] theorem resetController_targets (s : State) : s.resetController.targets = s.targets := rfl
@[simp] theorem resetController_inputs (s : State) : s.resetController.inputs = s.inputs := rfl
@[simp] theorem resetController_hostRdata (s : State) : s.resetController.hostRdata = s.hostRdata := rfl
@[simp] theorem resetController_wire (s : State) : s.resetController.wire = s.wire := rfl

@[simp] theorem withFetchWord_cmd (s : State) (n w : Nat) : (s.withFetchWord n w).cmd = s.cmd := rfl
@[simp] theorem withFetchWord_done (s : State) (n w : Nat) : (s.withFetchWord n w).done = s.done := rfl
@[simp] theorem withFetchWord_initDone (s : State) (n w : Nat) : (s.withFetchWord n w).initDone = s.initDone := rfl
@[simp] theorem withFetchWord_rejected (s : State) (n w : Nat) : (s.withFetchWord n w).rejected = s.rejected := rfl
@[simp] theorem withFetchWord_code (s : State) (n w : Nat) : (s.withFetchWord n w).code = s.code := rfl
@[simp] theorem withFetchWord_subop (s : State) (n w : Nat) : (s.withFetchWord n w).subop = s.subop := rfl
@[simp] theorem withFetchWord_offset (s : State) (n w : Nat) : (s.withFetchWord n w).offset = s.offset := rfl
@[simp] theorem withFetchWord_result (s : State) (n w : Nat) : (s.withFetchWord n w).result = s.result := rfl
@[simp] theorem withFetchWord_latch (s : State) (n w : Nat) : (s.withFetchWord n w).latch = s.latch := rfl
@[simp] theorem withFetchWord_work (s : State) (n w : Nat) : (s.withFetchWord n w).work = s.work := rfl
@[simp] theorem withFetchWord_seq (s : State) (n w : Nat) : (s.withFetchWord n w).seq = s.seq := rfl
@[simp] theorem withFetchWord_busClk (s : State) (n w : Nat) : (s.withFetchWord n w).busClk = s.busClk := rfl
@[simp] theorem withFetchWord_busPullup (s : State) (n w : Nat) : (s.withFetchWord n w).busPullup = s.busPullup := rfl
@[simp] theorem withFetchWord_busHeld (s : State) (n w : Nat) : (s.withFetchWord n w).busHeld = s.busHeld := rfl
@[simp] theorem withFetchWord_qcnt (s : State) (n w : Nat) : (s.withFetchWord n w).qcnt = s.qcnt := rfl
@[simp] theorem withFetchWord_inReset (s : State) (n w : Nat) : (s.withFetchWord n w).inReset = false := rfl
@[simp] theorem withFetchWord_params (s : State) (n w : Nat) : (s.withFetchWord n w).params = s.params := rfl
@[simp] theorem withFetchWord_targets (s : State) (n w : Nat) : (s.withFetchWord n w).targets = s.targets := rfl
@[simp] theorem withFetchWord_inputs (s : State) (n w : Nat) : (s.withFetchWord n w).inputs = .host (cmdAccess n w) :: s.inputs := rfl
@[simp] theorem withFetchWord_hostRdata (s : State) (n w : Nat) : (s.withFetchWord n w).hostRdata = s.hostRdata := rfl
@[simp] theorem withFetchWord_wire (s : State) (n w : Nat) : (s.withFetchWord n w).wire = s.wire := rfl

end Sys2Proof.Laws
end

