-- ==== Sys2Proof/Laws/Ops.lean ====
section
/-! SUPPORT. What each shared operation can do, said once: acceptance, the bus engine, the host port, the sequencer. -/

namespace Sys2Proof.Laws

open Sys2Proof.Machine

/-! ## Views -/

theorem busy_iff (s : State) : s.busy = true ↔ s.seq ≠ .idle := by simp [State.busy]

@[simp] theorem busy_eq_false_iff (s : State) : s.busy = false ↔ s.seq = .idle := by simp [State.busy]

/-! ## Acceptance -/

/-- A CMD write while a command runs is rejected (R140, R141). -/
theorem issue_busy (w : Word) (body : State → State) (s : State) (h : s.seq ≠ .idle) :
    issue w body s = s.reject := by simp [issue, State.busy, h]

/-- A CMD write while idle is accepted (R140, R142). -/
theorem issue_idle (w : Word) (body : State → State) (s : State) (h : s.seq = .idle) :
    issue w body s = body (s.accept w) := by simp [issue, State.busy, h]

theorem checkedDispatch_notInit (op : Opcode) (f : State → State) (s : State) (h : s.initDone = false) :
    checkedDispatch op f s = s.complete .notInit (failVal op) false := by simp [checkedDispatch, h]

theorem checkedDispatch_illegalAddr (op : Opcode) (f : State → State) (s : State) (h : s.initDone = true)
    (ha : admissible s.params s.latch.addr = false) :
    checkedDispatch op f s = s.complete .illegalAddr (failVal op) false := by simp [checkedDispatch, h, ha]

theorem checkedDispatch_legal (op : Opcode) (f : State → State) (s : State) (h : s.initDone = true)
    (ha : admissible s.params s.latch.addr = true) :
    checkedDispatch op f s = f s := by simp [checkedDispatch, h, ha]

/-- The dispatch of each command (R145). -/
def dispatchOf : Opcode → State → State
  | .init => dispatchInit
  | .probe => dispatchProbe
  | .readConfig => dispatchReadConfig
  | .readTemp => dispatchReadTemp
  | .setStandby => dispatchSetStandby
  | .readReg => dispatchReadReg
  | .writeReg => dispatchWriteReg

/-- What follows acceptance in the accepting step of each command (R143). -/
def bodyOf : Opcode → State → State
  | .init => dispatchInit
  | .probe => checkedDispatch .probe dispatchProbe
  | .readConfig => checkedDispatch .readConfig dispatchReadConfig
  | .readTemp => checkedDispatch .readTemp dispatchReadTemp
  | .setStandby => checkedDispatch .setStandby dispatchSetStandby
  | .readReg => checkedDispatch .readReg dispatchReadReg
  | .writeReg => checkedDispatch .writeReg dispatchWriteReg

theorem bodyOf_eq (op : Opcode) (h : op ≠ .init) : bodyOf op = checkedDispatch op (dispatchOf op) := by
  cases op <;> first | rfl | exact absurd rfl h

/-- What acceptance's checks and dispatch can do (R143, R145): complete the command in the same step, or start the
sequencer. Nothing else of the accepted state changes. -/
theorem bodyOf_cases (op : Opcode) (s : State) :
    (∃ c r, bodyOf op s = s.complete c r false) ∨
    (∃ x w, x ≠ .idle ∧ bodyOf op s = { s with seq := x, work := w }) := by
  by_cases h : op = .init
  · subst h
    show (∃ c r, dispatchInit s = _) ∨ (∃ x w, _ ∧ dispatchInit s = _)
    unfold dispatchInit
    split
    · exact .inl ⟨_, _, rfl⟩
    · exact .inr ⟨.cfg, s.work, by decide, rfl⟩
  · rw [bodyOf_eq op h]
    unfold checkedDispatch
    split
    · exact .inl ⟨_, _, rfl⟩
    · split
      · exact .inl ⟨_, _, rfl⟩
      · cases op with
        | init => exact absurd rfl h
        | probe => exact .inr ⟨.probeRd, s.work, by decide, rfl⟩
        | _ => exact .inr ⟨.wrTx, _, by decide, rfl⟩

/-- Every meaning is a CMD write of the command's word with its own checks and dispatch. -/
theorem exec_eq (i : Instr) (s : State) : exec i s = .next (issue (encode i) (bodyOf i.opcode) s) := by
  cases i <;> rfl

/-- A command's meaning while another command runs (R141). -/
theorem exec_busy (i : Instr) (s : State) (h : s.seq ≠ .idle) : exec i s = .next s.reject := by
  rw [exec_eq, issue_busy _ _ _ h]

/-- A command's meaning while idle: accepted, then checked and dispatched (R140 to R143). -/
theorem exec_idle (i : Instr) (s : State) (h : s.seq = .idle) :
    exec i s = .next (bodyOf i.opcode (s.accept (encode i))) := by
  rw [exec_eq, issue_idle _ _ _ h]

/-- A CMD write of any word is one next state (R140). -/
theorem cmdWrite_eq (w : Word) (s : State) :
    cmdWrite w s =
      match decode w with
      | .ok i => .next (issue (encode i) (bodyOf i.opcode) s)
      | .error _ => .next (issue w (State.complete .illegalCmd 0#32 false) s) := by
  unfold cmdWrite
  cases decode w with
  | ok i => exact exec_eq i s
  | error e => rfl

theorem cmdWrite_busy (w : Word) (s : State) (h : s.seq ≠ .idle) : cmdWrite w s = .next s.reject := by
  rw [cmdWrite_eq]
  cases decode w <;> simp [issue_busy _ _ _ h]

/-! ## The bus engine -/

/-- The bytes from number `k` on are all taken exactly when no position from `k` to just after the last of them is broken
and none of them is refused (R122, R126). -/
theorem sendBytes_taken (d : BusDraw) (k : Nat) (l : List Byte) :
    (sendBytes d k l).2 = true ↔
      (∀ j, d.brokenAt = some j → j < k ∨ k + l.length < j) ∧
        (∀ j, d.nackAt = some j → j < k ∨ k + l.length ≤ j) := by
  induction l generalizing k with
  | nil =>
    simp only [sendBytes, List.length_nil, Nat.add_zero]
    split
    · next h => simp [h]
    · next h =>
      refine iff_of_true rfl ⟨fun j hj => ?_, fun j _ => by omega⟩
      have : j ≠ k := by rintro rfl; exact h hj
      omega
  | cons b l ih =>
    simp only [sendBytes, List.length_cons]
    split
    · next h => simp [h]
    · next h =>
      split
      · next h' => simp [h']
      · next h' =>
        rw [ih]
        refine and_congr (forall₂_congr fun j hj => ?_) (forall₂_congr fun j hj => ?_)
        · have : j ≠ k := by rintro rfl; exact h hj
          omega
        · have : j ≠ k := by rintro rfl; exact h' hj
          omega

/-- BusWrite ends with all bytes counted and the bus held exactly when no STOP was asked for, or with `Fail` and the bus
released (R121, R122, R126). -/
theorem busWrite_cases (a : BusAddr) (bytes : List Byte) (stop : Bool) (d : BusDraw) :
    ((busWrite a bytes stop d).outcome = .count bytes.length ∧ (busWrite a bytes stop d).held = !stop) ∨
    ((busWrite a bytes stop d).outcome = .fail ∧ (busWrite a bytes stop d).held = false) := by
  unfold busWrite
  simp only
  split
  · exact .inl ⟨rfl, rfl⟩
  · exact .inr ⟨rfl, rfl⟩

@[simp] theorem run_write (held : Bool) (d : BusDraw) (a : BusAddr) (bytes : List Byte) (stop : Bool) :
    (Tx.write a bytes stop).run held d = busWrite a bytes stop d := rfl

@[simp] theorem run_read (held : Bool) (d : BusDraw) (a : BusAddr) (n : Fin 2) (stop : Bool) :
    (Tx.read a n stop).run held d = busRead a n stop held d := rfl

/-- BusRead never leaves the bus held, and ends with the bytes asked for or with `Fail` (R121, R124). -/
theorem busRead_cases (a : BusAddr) (n : Fin 2) (stop held : Bool) (d : BusDraw) :
    (busRead a n stop held d).held = false ∧
      ((busRead a n stop held d).outcome = .bytes (List.replicate n.val d.data) ∨
        (busRead a n stop held d).outcome = .fail) := by
  unfold busRead
  have hn : n = 0 ∨ n = 1 := by omega
  rcases hn with rfl | rfl <;> simp <;> split_ifs <;> simp

/-! ## The sequencer -/

/-- PostAccess either completes the command or starts CHECK, and never touches the bus (R148). -/
theorem postAccess_cases {s t : State} (h : postAccess s = .next t) :
    (∃ c r b, t = s.complete c r b) ∨ (s.latch.op = opBits .readTemp ∧ s.work.stage = .config ∧
      s.work.accOk = true ∧ t = { s with seq := .check }) := by
  unfold postAccess at h
  split at h <;> try cases h
  · exact .inl ⟨_, _, _, rfl⟩
  · unfold finishReadReg; split <;> exact .inl ⟨_, _, _, rfl⟩
  · unfold finishWriteReg; split <;> exact .inl ⟨_, _, _, rfl⟩
  · unfold finishSetStandby; split <;> exact .inl ⟨_, _, _, rfl⟩
  · unfold finishReadConfig; split <;> exact .inl ⟨_, _, _, rfl⟩
  · rename_i hop
    unfold finishReadTemp
    split
    · rename_i hs
      split
      · rename_i hok
        refine .inr ⟨?_, hs, hok, rfl⟩
        revert hop
        unfold opOfBits
        split_ifs <;> simp_all [opBits]
      · exact .inl ⟨_, _, _, rfl⟩
    · split <;> exact .inl ⟨_, _, _, rfl⟩

/-- CHECK completes with NOT_READY or starts the temperature access (R150). -/
theorem checkReady_cases (s : State) :
    (dataReady s.work.rxb = false ∧ checkReady s = s.complete .notReady tempSentinel false) ∨
    (dataReady s.work.rxb = true ∧ checkReady s = (s.setStage .temp).startRead (cmdByte s.params .temp)) := by
  unfold checkReady
  cases h : dataReady s.work.rxb
  · exact .inl ⟨rfl, rfl⟩
  · exact .inr ⟨rfl, rfl⟩

/-- What a transaction's end can do (R146, R131): take a held command byte to RD_TX, or record the access and enter
QUIESCE with the bus released. -/
inductive TxEnd (d : BusDraw) (s t : State) : Prop where
  | probe (hs : s.seq = .probeRd)
      (ht : t = ((s.afterTx (busRead s.latch.addr s.params.probeLen true s.busHeld d)).recordAccess
        ((busRead s.latch.addr s.params.probeLen true s.busHeld d).outcome != .fail)
        ((busRead s.latch.addr s.params.probeLen true s.busHeld d).outcome == .fail)).enterQuiesce)
  | heldTaken (hs : s.seq = .wrTx) (hk : s.work.accKind = .read)
      (ho : (busWrite s.latch.addr [s.work.accCmdb] false d).outcome = .count 1)
      (ht : t = { s.afterTx (busWrite s.latch.addr [s.work.accCmdb] false d) with seq := .rdTx })
  | heldFailed (hs : s.seq = .wrTx) (hk : s.work.accKind = .read)
      (ho : (busWrite s.latch.addr [s.work.accCmdb] false d).outcome = .fail)
      (ht : t = ((s.afterTx (busWrite s.latch.addr [s.work.accCmdb] false d)).recordAccess false false).enterQuiesce)
  | written (hs : s.seq = .wrTx) (hk : s.work.accKind = .write)
      (ht : t = ((s.afterTx (busWrite s.latch.addr [s.work.accCmdb, s.work.accData] true d)).recordAccess
        ((busWrite s.latch.addr [s.work.accCmdb, s.work.accData] true d).outcome == .count 2) false).enterQuiesce)
  | byteRead (hs : s.seq = .rdTx)
      (ho : (busRead s.latch.addr 1 true s.busHeld d).outcome = .bytes [d.data])
      (ht : t = ((s.afterTx (busRead s.latch.addr 1 true s.busHeld d)).recordByte d.data).enterQuiesce)
  | readFailed (hs : s.seq = .rdTx)
      (ho : (busRead s.latch.addr 1 true s.busHeld d).outcome = .fail)
      (ht : t = ((s.afterTx (busRead s.latch.addr 1 true s.busHeld d)).recordAccess false true).enterQuiesce)

theorem probeRdStep_cases {d : BusDraw} {s t : State} (hs : s.seq = .probeRd) (h : probeRdStep d s = .next t) :
    TxEnd d s t := by
  unfold probeRdStep at h
  split at h <;> cases h
  exact .probe hs rfl

theorem wrTxStep_cases {d : BusDraw} {s t : State} (hs : s.seq = .wrTx) (h : wrTxStep d s = .next t) :
    TxEnd d s t := by
  unfold wrTxStep at h
  split at h
  · rename_i hk
    unfold heldWriteStep at h
    simp only at h
    split at h
    · split at h <;> cases h
      · rename_i ho; exact .heldTaken hs hk ho rfl
      · rename_i ho
        rcases busWrite_cases s.latch.addr [s.work.accCmdb] false d with hc | hc
        · exact absurd hc.1 ho
        · exact .heldFailed hs hk hc.1 rfl
    · cases h
  · rename_i hk
    unfold wholeWriteStep at h
    split at h <;> cases h
    exact .written hs hk rfl

theorem rdTxStep_cases {d : BusDraw} {s t : State} (hs : s.seq = .rdTx) (h : rdTxStep d s = .next t) :
    TxEnd d s t := by
  unfold rdTxStep at h
  simp only at h
  split at h
  · rcases (busRead_cases s.latch.addr 1 true s.busHeld d).2 with ho | ho
    · rw [show List.replicate (1 : Fin 2).val d.data = [d.data] from rfl] at ho
      rw [ho] at h
      cases h
      exact .byteRead hs ho rfl
    · rw [ho] at h
      cases h
      exact .readFailed hs ho rfl
  · cases h

/-- What one sequencer step can do (R146). -/
inductive SeqMove (d : Option BusDraw) (s t : State) : Prop where
  | rests (ht : t = s) (hs : s.seq = .idle ∨ (d = none ∧ s.seq.inTransaction = true))
  | configures (hs : s.seq = .cfg) (ht : t = finishInit s)
  | counts (hs : s.seq = .quiesce) (hq : s.qcnt ≠ 0) (ht : t = { s with qcnt := s.qcnt - 1 })
  | finishes (hs : s.seq = .quiesce) (hq : s.qcnt = 0) (ht : postAccess s.logQuiet = .next t)
  | checks (hs : s.seq = .check) (ht : t = checkReady s)
  | ends (x : BusDraw) (hd : d = some x) (ht : TxEnd x s t)

theorem seqStep_cases {d : Option BusDraw} {s t : State} (h : seqStep d s = .next t) : SeqMove d s t := by
  unfold seqStep at h
  split at h
  · rename_i hs; cases h; exact .rests rfl (.inl hs)
  · rename_i hs; cases h; exact .configures hs rfl
  · rename_i hs
    cases d with
    | none => cases h; exact .rests rfl (.inr ⟨rfl, by rw [hs]; rfl⟩)
    | some x => exact .ends x rfl (probeRdStep_cases hs h)
  · rename_i hs
    cases d with
    | none => cases h; exact .rests rfl (.inr ⟨rfl, by rw [hs]; rfl⟩)
    | some x => exact .ends x rfl (wrTxStep_cases hs h)
  · rename_i hs
    cases d with
    | none => cases h; exact .rests rfl (.inr ⟨rfl, by rw [hs]; rfl⟩)
    | some x => exact .ends x rfl (rdTxStep_cases hs h)
  · rename_i hs
    unfold quiesceStep at h
    split at h
    · rename_i hq; exact .finishes hs hq h
    · rename_i hq; cases h; exact .counts hs hq rfl
  · rename_i hs; cases h; exact .checks hs rfl

/-- A sequencer step is never refused. -/
theorem seqStep_not_refused (d : Option BusDraw) (s : State) (r : Refusal) : seqStep d s ≠ .refused r := by
  unfold seqStep whenAnswered probeRdStep wrTxStep heldWriteStep wholeWriteStep rdTxStep quiesceStep postAccess
  intro h
  simp only at h
  repeat' split at h
  all_goals cases h

/-! ## The host port -/

/-- What an aligned word write does (R79), register by register. -/
theorem hostWrite_cases {off : HostOff} {v : Word} {s t : State} (h : hostWrite off v s = .next t) :
    (hostReg off = .cmd ∧ cmdWrite v s = .next t) ∨ (hostReg off = .status ∧ t = s.clearStatus v) ∨
    (hostReg off = .offset ∧ t = { s with offset := v }) ∨
    ((hostReg off = .result ∨ hostReg off = .unmapped) ∧ t = s) := by
  unfold hostWrite at h
  split at h
  · rename_i hr; exact .inl ⟨hr, h⟩
  · rename_i hr; cases h; exact .inr (.inl ⟨hr, rfl⟩)
  · rename_i hr; cases h; exact .inr (.inr (.inl ⟨hr, rfl⟩))
  · rename_i hr; cases h; exact .inr (.inr (.inr ⟨.inl hr, rfl⟩))
  · rename_i hr; cases h; exact .inr (.inr (.inr ⟨.inr hr, rfl⟩))

/-- What a host step that is taken can do (R77, R78, R79, R240). -/
theorem hostStep_cases {a : HostAccess} {s t : State} (h : hostStep a s = .next t) :
    s.inReset = false ∧
      ((∃ off, a = .read .word off ∧ wholeWord .word off = true ∧ t = { s with hostRdata := s.hostRead off }) ∨
        (∃ off v, a = .write .word off v ∧ wholeWord .word off = true ∧ hostWrite off v s = .next t)) := by
  unfold hostStep at h
  split at h
  · cases h
  · rename_i hr
    refine ⟨by simpa using hr, ?_⟩
    split at h
    · rename_i size off
      split at h <;> cases h
      rename_i hw
      cases size <;> simp [wholeWord] at hw
      exact .inl ⟨off, rfl, by simpa [wholeWord] using hw, rfl⟩
    · rename_i size off v
      split at h
      · rename_i hw
        cases size <;> simp [wholeWord] at hw
        exact .inr ⟨off, v, rfl, by simpa [wholeWord] using hw, h⟩
      · cases h

/-- A host access never faults. -/
theorem hostStep_not_fault (a : HostAccess) (s : State) (r : Fault) : hostStep a s ≠ .fault r := by
  have hc : ∀ w, cmdWrite w s ≠ .fault r := by
    intro w h
    rw [cmdWrite_eq] at h
    split at h <;> cases h
  intro h
  unfold hostStep hostWrite at h
  repeat' split at h
  all_goals first | cases h | exact hc _ h

end Sys2Proof.Laws
end

