-- ==== Sys2Proof/Laws/PerInstr.lean ====
section
/-! SUPPORT. Facts about each command as syntax, one lemma per constructor. -/

/-- A command's word hits the row of its opcode (R103) and carries its OP and ADDR fields (R101). -/
def Sys2Proof.Laws.EncodedFields.Statement (i : Sys2Proof.Instr) : Prop :=
  Sys2Proof.hitsRow (Sys2Proof.encode i) i.opcode = true ∧
    Sys2Proof.fieldOp (Sys2Proof.encode i) = Sys2Proof.opBits i.opcode ∧
    Sys2Proof.fieldAddr (Sys2Proof.encode i) = i.addr

namespace Sys2Proof.Laws.EncodedFields

theorem init : Statement .init := ⟨hits_init, fieldOp_layWord .., fieldAddr_layWord ..⟩

theorem probe (addr : BusAddr) : Statement (.probe addr) :=
  ⟨hits_probe addr, fieldOp_layWord .., fieldAddr_layWord ..⟩

theorem readConfig (addr : BusAddr) : Statement (.readConfig addr) :=
  ⟨hits_readConfig addr, fieldOp_layWord .., fieldAddr_layWord ..⟩

theorem readTemp (addr : BusAddr) : Statement (.readTemp addr) :=
  ⟨hits_readTemp addr, fieldOp_layWord .., fieldAddr_layWord ..⟩

theorem setStandby (addr : BusAddr) (en : Bool) : Statement (.setStandby addr en) :=
  ⟨hits_setStandby addr en, fieldOp_layWord .., fieldAddr_layWord ..⟩

theorem readReg (addr : BusAddr) (reg : TargetReg) : Statement (.readReg addr reg) :=
  ⟨hits_readReg addr (regBit reg), fieldOp_layWord .., fieldAddr_layWord ..⟩

theorem writeReg (addr : BusAddr) (reg : TargetReg) (value : Byte) : Statement (.writeReg addr reg value) :=
  ⟨hits_writeReg value addr (regBit reg), fieldOp_layWord .., fieldAddr_layWord ..⟩

end Sys2Proof.Laws.EncodedFields
end

