-- ==== Sys2Proof/Laws/Run.lean ====
section
/-! SUPPORT. Runs: a step reads the list of inputs only to take its head, so a run on a script is the script's inputs taken
one after the other. -/

namespace Sys2Proof.Laws

open Sys2Proof.Machine

/-- `s` with another list of waiting inputs. -/
def withInputs (l : List Input) (s : State) : State := { s with inputs := l }

/-- An outcome with its next state changed. -/
def mapNext (f : State → State) : Host.Outcome State Fault Refusal → Host.Outcome State Fault Refusal
  | .next s => .next (f s)
  | .fault r => .fault r
  | .refused r => .refused r

@[simp] theorem withInputs_inputs (l : List Input) (s : State) : (withInputs l s).inputs = l := rfl
@[simp] theorem withInputs_cmd (l : List Input) (s : State) : (withInputs l s).cmd = s.cmd := rfl
@[simp] theorem withInputs_done (l : List Input) (s : State) : (withInputs l s).done = s.done := rfl
@[simp] theorem withInputs_initDone (l : List Input) (s : State) : (withInputs l s).initDone = s.initDone := rfl
@[simp] theorem withInputs_rejected (l : List Input) (s : State) : (withInputs l s).rejected = s.rejected := rfl
@[simp] theorem withInputs_code (l : List Input) (s : State) : (withInputs l s).code = s.code := rfl
@[simp] theorem withInputs_subop (l : List Input) (s : State) : (withInputs l s).subop = s.subop := rfl
@[simp] theorem withInputs_offset (l : List Input) (s : State) : (withInputs l s).offset = s.offset := rfl
@[simp] theorem withInputs_result (l : List Input) (s : State) : (withInputs l s).result = s.result := rfl
@[simp] theorem withInputs_latch (l : List Input) (s : State) : (withInputs l s).latch = s.latch := rfl
@[simp] theorem withInputs_work (l : List Input) (s : State) : (withInputs l s).work = s.work := rfl
@[simp] theorem withInputs_seq (l : List Input) (s : State) : (withInputs l s).seq = s.seq := rfl
@[simp] theorem withInputs_busClk (l : List Input) (s : State) : (withInputs l s).busClk = s.busClk := rfl
@[simp] theorem withInputs_busPullup (l : List Input) (s : State) : (withInputs l s).busPullup = s.busPullup := rfl
@[simp] theorem withInputs_busHeld (l : List Input) (s : State) : (withInputs l s).busHeld = s.busHeld := rfl
@[simp] theorem withInputs_qcnt (l : List Input) (s : State) : (withInputs l s).qcnt = s.qcnt := rfl
@[simp] theorem withInputs_inReset (l : List Input) (s : State) : (withInputs l s).inReset = s.inReset := rfl
@[simp] theorem withInputs_params (l : List Input) (s : State) : (withInputs l s).params = s.params := rfl
@[simp] theorem withInputs_targets (l : List Input) (s : State) : (withInputs l s).targets = s.targets := rfl
@[simp] theorem withInputs_hostRdata (l : List Input) (s : State) : (withInputs l s).hostRdata = s.hostRdata := rfl
@[simp] theorem withInputs_wire (l : List Input) (s : State) : (withInputs l s).wire = s.wire := rfl
@[simp] theorem withInputs_busConfigured (l : List Input) (s : State) :
    (withInputs l s).busConfigured = s.busConfigured := rfl

@[simp] theorem withInputs_self (s : State) : withInputs s.inputs s = s := rfl

@[simp] theorem withInputs_withInputs (l m : List Input) (s : State) :
    withInputs l (withInputs m s) = withInputs l s := rfl

@[simp] theorem mapNext_next (f : State → State) (s : State) : mapNext f (.next s) = .next (f s) := rfl

/-- A choice whose test does not read the inputs. -/
theorem withInputs_ite {c c' : Prop} [Decidable c] [Decidable c'] (hc : c' ↔ c) {l : List Input} {x y x' y' : State}
    (hx : x' = withInputs l x) (hy : y' = withInputs l y) :
    (if c' then x' else y') = withInputs l (if c then x else y) := by
  subst hx hy
  by_cases h : c
  · rw [if_pos h, if_pos (hc.2 h)]
  · rw [if_neg h, if_neg (fun h' => h (hc.1 h'))]

/-- The same for outcomes. -/
theorem mapNext_ite {c c' : Prop} [Decidable c] [Decidable c'] (hc : c' ↔ c) {f : State → State}
    {x y x' y' : Host.Outcome State Fault Refusal} (hx : x' = mapNext f x) (hy : y' = mapNext f y) :
    (if c' then x' else y') = mapNext f (if c then x else y) := by
  subst hx hy
  by_cases h : c
  · rw [if_pos h, if_pos (hc.2 h)]
  · rw [if_neg h, if_neg (fun h' => h (hc.1 h'))]

/-! ## The waiting inputs play no part in a step -/

theorem issue_withInputs (w : Word) (body : State → State) (l : List Input) (s : State)
    (h : ∀ s, body (withInputs l s) = withInputs l (body s)) :
    issue w body (withInputs l s) = withInputs l (issue w body s) := by
  by_cases hs : s.seq = .idle
  · rw [issue_idle _ _ _ hs, issue_idle _ _ (withInputs l s) hs]
    exact h (s.accept w)
  · rw [issue_busy _ _ _ hs, issue_busy _ _ (withInputs l s) hs]
    rfl

theorem bodyOf_withInputs (op : Opcode) (l : List Input) (s : State) :
    bodyOf op (withInputs l s) = withInputs l (bodyOf op s) := by
  by_cases hop : op = .init
  · subst hop
    show dispatchInit _ = withInputs l (dispatchInit _)
    unfold dispatchInit
    show (if s.initDone then _ else _) = _
    split <;> rfl
  · rw [bodyOf_eq op hop]
    unfold checkedDispatch
    show (if !s.initDone then _ else if !admissible s.params s.latch.addr then _ else _) = _
    split
    · rfl
    · split
      · rfl
      · cases op <;> first | rfl | exact absurd rfl hop

theorem cmdWrite_withInputs (w : Word) (l : List Input) (s : State) :
    cmdWrite w (withInputs l s) = mapNext (withInputs l) (cmdWrite w s) := by
  rw [cmdWrite_eq, cmdWrite_eq]
  cases decode w with
  | ok i => exact congrArg _ (issue_withInputs _ _ l s (bodyOf_withInputs _ l))
  | error e =>
    exact congrArg Host.Outcome.next
      (issue_withInputs w (State.complete .illegalCmd 0#32 false) l s (fun _ => rfl))

theorem hostRead_withInputs (off : HostOff) (l : List Input) (s : State) :
    (withInputs l s).hostRead off = s.hostRead off := rfl

theorem hostStep_withInputs (a : HostAccess) (l : List Input) (s : State) :
    hostStep a (withInputs l s) = mapNext (withInputs l) (hostStep a s) := by
  unfold hostStep
  show (if s.inReset then _ else _) = _
  split
  · rfl
  · cases a with
    | read size off =>
      show (if _ then _ else _) = mapNext _ (if _ then _ else _)
      split <;> rfl
    | write size off v =>
      show (if _ then _ else _) = mapNext _ (if _ then _ else _)
      split
      · unfold hostWrite
        cases hostReg off <;> first | exact cmdWrite_withInputs v l s | rfl
      · rfl

theorem finishProbe_withInputs (l : List Input) (s : State) :
    finishProbe (withInputs l s) = withInputs l (finishProbe s) := rfl

theorem finishReadReg_withInputs (l : List Input) (s : State) :
    finishReadReg (withInputs l s) = withInputs l (finishReadReg s) := withInputs_ite Iff.rfl rfl rfl

theorem finishWriteReg_withInputs (l : List Input) (s : State) :
    finishWriteReg (withInputs l s) = withInputs l (finishWriteReg s) := withInputs_ite Iff.rfl rfl rfl

theorem finishSetStandby_withInputs (l : List Input) (s : State) :
    finishSetStandby (withInputs l s) = withInputs l (finishSetStandby s) := withInputs_ite Iff.rfl rfl rfl

theorem finishReadConfig_withInputs (l : List Input) (s : State) :
    finishReadConfig (withInputs l s) = withInputs l (finishReadConfig s) := withInputs_ite Iff.rfl rfl rfl

theorem finishReadTemp_withInputs (l : List Input) (s : State) :
    finishReadTemp (withInputs l s) = withInputs l (finishReadTemp s) := by
  unfold finishReadTemp
  simp only [withInputs_work]
  cases s.work.stage <;> exact withInputs_ite Iff.rfl rfl rfl

theorem checkReady_withInputs (l : List Input) (s : State) :
    checkReady (withInputs l s) = withInputs l (checkReady s) := withInputs_ite Iff.rfl rfl rfl

theorem postAccess_withInputs (l : List Input) (s : State) :
    postAccess (withInputs l s) = mapNext (withInputs l) (postAccess s) := by
  unfold postAccess
  simp only [withInputs_latch, finishProbe_withInputs, finishReadReg_withInputs, finishWriteReg_withInputs,
    finishSetStandby_withInputs, finishReadConfig_withInputs, finishReadTemp_withInputs]
  cases opOfBits s.latch.op with
  | none => rfl
  | some op => cases op <;> rfl

theorem probeRdStep_withInputs (x : BusDraw) (l : List Input) (s : State) :
    probeRdStep x (withInputs l s) = mapNext (withInputs l) (probeRdStep x s) := mapNext_ite Iff.rfl rfl rfl

theorem heldWriteStep_withInputs (x : BusDraw) (l : List Input) (s : State) :
    heldWriteStep x (withInputs l s) = mapNext (withInputs l) (heldWriteStep x s) :=
  mapNext_ite Iff.rfl (mapNext_ite Iff.rfl rfl rfl) rfl

theorem wholeWriteStep_withInputs (x : BusDraw) (l : List Input) (s : State) :
    wholeWriteStep x (withInputs l s) = mapNext (withInputs l) (wholeWriteStep x s) := mapNext_ite Iff.rfl rfl rfl

theorem wrTxStep_withInputs (x : BusDraw) (l : List Input) (s : State) :
    wrTxStep x (withInputs l s) = mapNext (withInputs l) (wrTxStep x s) := by
  unfold wrTxStep
  simp only [withInputs_work]
  cases s.work.accKind with
  | read => exact heldWriteStep_withInputs x l s
  | write => exact wholeWriteStep_withInputs x l s

theorem rdTxStep_withInputs (x : BusDraw) (l : List Input) (s : State) :
    rdTxStep x (withInputs l s) = mapNext (withInputs l) (rdTxStep x s) := by
  refine mapNext_ite Iff.rfl ?_ rfl
  simp only [withInputs_busHeld, withInputs_latch]
  rcases (busRead_cases s.latch.addr 1 true s.busHeld x).2 with ho | ho <;> simp only [ho] <;> rfl

theorem quiesceStep_withInputs (l : List Input) (s : State) :
    quiesceStep (withInputs l s) = mapNext (withInputs l) (quiesceStep s) :=
  mapNext_ite Iff.rfl (postAccess_withInputs l s.logQuiet) rfl

theorem seqStep_withInputs (d : Option BusDraw) (l : List Input) (s : State) :
    seqStep d (withInputs l s) = mapNext (withInputs l) (seqStep d s) := by
  unfold seqStep
  simp only [withInputs_seq]
  cases s.seq with
  | idle => rfl
  | cfg => rfl
  | probeRd =>
    cases d with
    | none => rfl
    | some x => exact probeRdStep_withInputs x l s
  | wrTx =>
    cases d with
    | none => rfl
    | some x => exact wrTxStep_withInputs x l s
  | rdTx =>
    cases d with
    | none => rfl
    | some x => exact rdTxStep_withInputs x l s
  | quiesce => exact quiesceStep_withInputs l s
  | check => exact congrArg Host.Outcome.next (checkReady_withInputs l s)

theorem refStep_withInputs (l : List Input) (s : State) :
    refStep (withInputs l s) = mapNext (withInputs l) (refStep s) := by
  unfold refStep
  rw [show (withInputs l s).runningTx = s.runningTx from rfl]
  cases s.runningTx with
  | none => exact seqStep_withInputs none l s
  | some x => exact seqStep_withInputs _ l { s with targets := targetsAfter s.params x s.targets }

theorem driveReset_withInputs (b : Bool) (l : List Input) (s : State) :
    (withInputs l s).driveReset b = withInputs l (s.driveReset b) := by cases b <;> rfl

theorem cycleInput_withInputs (r : Bool) (a : Option HostAccess) (d : Option BusDraw) (l : List Input) (s : State) :
    cycleInput r a d (withInputs l s) = mapNext (withInputs l) (cycleInput r a d s) := by
  cases r with
  | true => rfl
  | false =>
    cases a with
    | none => exact seqStep_withInputs d l (s.driveReset false)
    | some a =>
      unfold cycleInput
      simp only [driveReset_withInputs, hostStep_withInputs]
      cases hostStep a (s.driveReset false) with
      | next t =>
        show (if s.busy = true then seqStep d (withInputs l t) else .next (withInputs l t)) =
          mapNext _ (if s.busy = true then seqStep d t else .next t)
        split
        · exact seqStep_withInputs d l t
        · rfl
      | fault r => rfl
      | refused r => rfl

theorem convertAt_withInputs (a : BusAddr) (b : Byte) (l : List Input) (s : State) :
    (withInputs l s).convertAt a b = withInputs l (s.convertAt a b) := by
  unfold State.convertAt
  simp only [withInputs_targets]
  cases targetAt s.targets a <;> rfl

theorem applyInput_withInputs (x : Input) (l : List Input) (s : State) :
    applyInput x (withInputs l s) = mapNext (withInputs l) (applyInput x s) := by
  have hsel : ∀ (f : State → Host.Outcome State Fault Refusal),
      f (withInputs l s) = mapNext (withInputs l) (f s) →
      (if s.inReset then .next (withInputs l s) else f (withInputs l s)) =
        mapNext (withInputs l) (if s.inReset then .next s else f s) := by
    intro f hf
    cases s.inReset with
    | true => rfl
    | false => exact hf
  cases x with
  | host a => exact hostStep_withInputs a l s
  | seq d => exact hsel (seqStep d) (seqStep_withInputs d l s)
  | seqRef => exact hsel refStep (refStep_withInputs l s)
  | cycle r a d => exact cycleInput_withInputs r a d l s
  | rst b => exact congrArg _ (driveReset_withInputs b l s)
  | convert a b => exact congrArg _ (convertAt_withInputs a b l s)
  | powerUp a b => rfl

/-- No input changes the inputs that wait behind it. -/
theorem applyInput_inputs {x : Input} {s t : State} (h : applyInput x s = .next t) : t.inputs = s.inputs := by
  have hx := applyInput_withInputs x s.inputs s
  rw [withInputs_self, h] at hx
  have ht : t = withInputs s.inputs t := Host.Outcome.next.inj hx
  rw [ht]
  rfl

/-! ## Runs on a script -/

theorem run_succ_next {M : Host.Core} {k : Nat} {s t : M.State} (h : M.step s = .next t) :
    M.run (k + 1) s = M.run k t := by simp only [Host.Core.run, h]

theorem run_succ_fault {M : Host.Core} {k : Nat} {s : M.State} {r : M.Fault} (h : M.step s = .fault r) :
    M.run (k + 1) s = .fault r := by simp only [Host.Core.run, h]

theorem run_succ_refused {M : Host.Core} {k : Nat} {s : M.State} {r : M.Refusal} (h : M.step s = .refused r) :
    M.run (k + 1) s = .refused r := by simp only [Host.Core.run, h]

theorem drive_nil (s : State) : drive [] s = .next s := rfl

/-- A run on a script takes the first input and runs on with the rest. -/
theorem drive_cons (x : Input) (script : List Input) (s : State) :
    drive (x :: script) s =
      match applyInput x s with
      | .next t => drive script t
      | .fault r => .fault r
      | .refused r => .refused r := by
  have hs : step { s with inputs := x :: script ++ s.inputs } =
      mapNext (withInputs (script ++ s.inputs)) (applyInput x s) :=
    applyInput_withInputs x (script ++ s.inputs) s
  cases h : applyInput x s with
  | next t =>
    rw [h, mapNext_next] at hs
    show drive (x :: script) s = drive script t
    unfold drive
    rw [applyInput_inputs h]
    exact run_succ_next (M := Sys2Proof.core) hs
  | fault r =>
    rw [h] at hs
    exact run_succ_fault (M := Sys2Proof.core) hs
  | refused r =>
    rw [h] at hs
    exact run_succ_refused (M := Sys2Proof.core) hs

/-- A run whose first input is taken. -/
theorem drive_cons_next {x : Input} {script : List Input} {s t : State} (h : applyInput x s = .next t) :
    drive (x :: script) s = drive script t := by rw [drive_cons, h]

/-- A run on two scripts, the first of which ends in a next state. -/
theorem drive_append {p q : List Input} {s t : State} (h : drive p s = .next t) :
    drive (p ++ q) s = drive q t := by
  induction p generalizing s with
  | nil => cases h; rfl
  | cons x p ih =>
    rw [drive_cons] at h
    rw [List.cons_append, drive_cons]
    cases hx : applyInput x s with
    | next u => rw [hx] at h; exact ih h
    | fault r => rw [hx] at h; cases h
    | refused r => rw [hx] at h; cases h

/-- A step takes the first waiting input, or lets the sequencer step without an answer when none waits. -/
theorem step_cases {s t : State} (h : step s = .next t) :
    (s.inputs = [] ∧ seqInput none s = .next t) ∨
    (∃ x rest u, s.inputs = x :: rest ∧ applyInput x s = .next u ∧ t = withInputs rest u) := by
  unfold step takeInput at h
  split at h
  · rename_i hi; exact .inl ⟨hi, h⟩
  · rename_i x rest hi
    rw [show ({ s with inputs := rest } : State) = withInputs rest s from rfl, applyInput_withInputs] at h
    cases hx : applyInput x s with
    | next u => rw [hx] at h; exact .inr ⟨x, rest, u, hi, hx, (Host.Outcome.next.inj h).symm⟩
    | fault r => rw [hx] at h; cases h
    | refused r => rw [hx] at h; cases h

end Sys2Proof.Laws
end

