-- ==== Sys2Proof/Laws/Target.lean ====
section
/-! SUPPORT. The list of reference targets: reading after a write, and the canonical form that every operation keeps. -/

namespace Sys2Proof.Laws

open Sys2Proof.Machine

/-- A list is in canonical form exactly when its tail is and its first address lies below the tail's first. -/
theorem targetsRising_cons {x : BusAddr × Target} {l : List (BusAddr × Target)} :
    targetsRising (x :: l) = true ↔ targetsRising l = true ∧ ∀ y ∈ l.head?, x.1.toNat < y.1.toNat := by
  cases l with
  | nil => simp [targetsRising]
  | cons y l =>
    obtain ⟨a, t⟩ := x
    obtain ⟨b, u⟩ := y
    simp [targetsRising, and_comm]

/-- The first address after a write is the written one or the old first one. -/
theorem putTarget_head (l : List (BusAddr × Target)) (a : BusAddr) (t : Target) :
    ∀ y ∈ (putTarget l a t).head?, y.1 = a ∨ ∃ z ∈ l.head?, y.1 = z.1 := by
  cases l with
  | nil => simp [putTarget]
  | cons x l =>
    obtain ⟨b, u⟩ := x
    unfold putTarget
    split
    · simp
    · split <;> simp

/-- Writing a target keeps the canonical form. -/
theorem putTarget_rising {l : List (BusAddr × Target)} (a : BusAddr) (t : Target) (h : targetsRising l = true) :
    targetsRising (putTarget l a t) = true := by
  induction l with
  | nil => rfl
  | cons x l ih =>
    obtain ⟨b, u⟩ := x
    unfold putTarget
    split
    · rw [targetsRising_cons]
      exact ⟨h, by simpa⟩
    · split
      · rename_i hba
        subst hba
        exact targetsRising_cons.2 ⟨(targetsRising_cons.1 h).1, (targetsRising_cons.1 h).2⟩
      · rename_i hlt hba
        obtain ⟨h₁, h₂⟩ := targetsRising_cons.1 h
        refine targetsRising_cons.2 ⟨ih h₁, fun y hy => ?_⟩
        have hne : b.toNat ≠ a.toNat := fun e => hba (BitVec.eq_of_toNat_eq e)
        rcases putTarget_head l a t y hy with e | ⟨z, hz, e⟩
        · rw [e]
          show b.toNat < a.toNat
          omega
        · rw [e]
          exact h₂ z hz

/-- Every entry after a write is an old one or the written one. -/
theorem putTarget_mem (l : List (BusAddr × Target)) (a : BusAddr) (t : Target) :
    ∀ e ∈ putTarget l a t, e ∈ l ∨ e = (a, t) := by
  induction l with
  | nil => simp [putTarget]
  | cons x l ih =>
    obtain ⟨b, u⟩ := x
    unfold putTarget
    split
    · simp; tauto
    · split
      · simp; tauto
      · simp only [List.mem_cons]
        rintro e (rfl | he)
        · exact .inl (.inl rfl)
        · rcases ih e he with h | h
          · exact .inl (.inr h)
          · exact .inr h

/-- A listed target is an entry. -/
theorem mem_of_targetAt {l : List (BusAddr × Target)} {a : BusAddr} {t : Target} (h : targetAt l a = some t) :
    (a, t) ∈ l := by
  induction l with
  | nil => cases h
  | cons x l ih =>
    obtain ⟨b, u⟩ := x
    unfold targetAt at h
    split at h
    · rename_i e
      cases h
      simp [e]
    · exact List.mem_cons_of_mem _ (ih h)

/-- No target is listed below the first address of a canonical list. -/
theorem targetAt_below {l : List (BusAddr × Target)} {a : BusAddr} (h : targetsRising l = true)
    (ha : ∀ y ∈ l.head?, a.toNat < y.1.toNat) : targetAt l a = none := by
  induction l with
  | nil => rfl
  | cons x l ih =>
    obtain ⟨b, u⟩ := x
    obtain ⟨h₁, h₂⟩ := targetsRising_cons.1 h
    have hab : a.toNat < b.toNat := ha (b, u) rfl
    unfold targetAt
    rw [if_neg (fun e => by rw [e] at hab; omega)]
    exact ih h₁ (fun y hy => lt_trans hab (h₂ y hy))

/-- Reading after a write: the written address gives the written target, every other address what it gave before. -/
theorem targetAt_putTarget {l : List (BusAddr × Target)} (h : targetsRising l = true) (a : BusAddr) (t : Target)
    (c : BusAddr) : targetAt (putTarget l a t) c = if c = a then some t else targetAt l c := by
  induction l with
  | nil =>
    simp only [putTarget, targetAt]
    split <;> split <;> simp_all
  | cons x l ih =>
    obtain ⟨b, u⟩ := x
    obtain ⟨h₁, h₂⟩ := targetsRising_cons.1 h
    unfold putTarget
    split
    · by_cases hc : c = a
      · subst hc; simp [targetAt]
      · rw [targetAt, if_neg (fun e => hc e.symm), if_neg hc]
    · split
      · rename_i hba
        subst hba
        simp only [targetAt]
        by_cases hc : c = b
        · subst hc; simp
        · rw [if_neg (fun e => hc e.symm), if_neg hc, if_neg (fun e => hc e.symm)]
      · rename_i hba
        simp only [targetAt]
        rw [ih h₁]
        by_cases hc : b = c
        · subst hc
          rw [if_pos rfl, if_neg hba, if_pos rfl]
        · rw [if_neg hc, if_neg hc]

/-- A transaction of the reference target keeps the canonical form (R222, R223). -/
theorem targetsAfter_rising {l : List (BusAddr × Target)} (p : Params) (x : Tx) (h : targetsRising l = true) :
    targetsRising (targetsAfter p x l) = true := by
  unfold targetsAfter
  split
  · exact h
  · split
    · exact putTarget_rising _ _ h
    · exact h

/-- A convert step keeps the canonical form (R225). -/
theorem convertAt_rising {s : State} (a : BusAddr) (b : Byte) (h : targetsRising s.targets = true) :
    targetsRising (s.convertAt a b).targets = true := by
  unfold State.convertAt
  split
  · exact h
  · exact putTarget_rising _ _ h

/-- A power-up keeps the canonical form (R226). -/
theorem powerUpAt_rising {s : State} (a : BusAddr) (b : Byte) (h : targetsRising s.targets = true) :
    targetsRising (s.powerUpAt a b).targets = true := putTarget_rising _ _ h

/-- The machine right after reset lists no target. -/
theorem reset_rising : targetsRising State.reset.targets = true := rfl

/-- In standby the reference target's DATA_RDY stays 0 through a transaction (R223, R224). -/
theorem after_standby (p : Params) (x : Tx) (t : Target) (h : t.shdn = true → t.dataRdy = false) :
    (t.after p x).shdn = true → (t.after p x).dataRdy = false := by
  unfold Target.after
  repeat' split
  all_goals simp_all

end Sys2Proof.Laws
end

