-- ==== Sys2Proof/Tests/Slice0.lean ====
section
/-! SUPPORT. Tests: decoding of words written out from R101 to R103, the checks of WellFormed, one or two runs for each
command with the results of 95_test_vectors.md, and for each statement with hypotheses a state that meets them. -/

namespace Sys2Proof.Tests

open Sys2Proof Sys2Proof.Machine

/-! ## Decoding (words of R111 and 95_test_vectors.md 2.2) -/

theorem test_decode_init : decode 0x00000001#32 = .ok .init := by decide
theorem test_decode_probe : decode 0x00004C02#32 = .ok (.probe 0x4C#7) := by decide
theorem test_decode_readConfig : decode 0x00004803#32 = .ok (.readConfig 0x48#7) := by decide
theorem test_decode_readTemp : decode 0x00007F04#32 = .ok (.readTemp 0x7F#7) := by decide
theorem test_decode_setStandby_on : decode 0x00004C25#32 = .ok (.setStandby 0x4C#7 true) := by decide
theorem test_decode_setStandby_off : decode 0x00004C05#32 = .ok (.setStandby 0x4C#7 false) := by decide
theorem test_decode_readReg_temp : decode 0x00004C06#32 = .ok (.readReg 0x4C#7 .temp) := by decide
theorem test_decode_readReg_config : decode 0x00004C16#32 = .ok (.readReg 0x4C#7 .config) := by decide
theorem test_decode_writeReg : decode 0x00124F07#32 = .ok (.writeReg 0x4F#7 .temp 0x12#8) := by decide
theorem test_decode_zero : decode 0x00000000#32 = .error .reservedOpcode := by decide
theorem test_decode_op8 : decode 0x00004C08#32 = .error .reservedOpcode := by decide
theorem test_decode_bit15 : decode 0x00008C02#32 = .error .reservedBit := by decide
theorem test_decode_bit6 : decode 0x00004C42#32 = .error .reservedBit := by decide
theorem test_decode_init_addr : decode 0x00000101#32 = .error .unusedField := by decide
theorem test_decode_standby_reg : decode 0x00004C35#32 = .error .unusedField := by decide
theorem test_decode_readReg_value : decode 0x01004C06#32 = .error .reservedBit := by decide
theorem test_decodeTableWord : decodeTableWord 32 0x00804C17 = some (.writeReg 0x4C#7 .config 0x80#8) := by decide
theorem test_encode_standby : encode (.setStandby 0x4C#7 true) = 0x00004C25#32 := by decide
theorem test_encode_writeReg : encode (.writeReg 0x4C#7 .config 0xFF#8) = 0x00FF4C17#32 := by decide

/-! ## The checks of WellFormed refuse what breaks them (R109) -/

theorem test_wf_addr : (Stmt.probe 0x80).wellFormed = false := by decide
theorem test_wf_enable : (Stmt.setStandby 0x4C 2).wellFormed = false := by decide
theorem test_wf_reg : (Stmt.readReg 0x4C 2).wellFormed = false := by decide
theorem test_wf_value : (Stmt.writeReg 0x4C 1 0x100).wellFormed = false := by decide
theorem test_wf_word : (Stmt.word (2 ^ 32)).wellFormed = false := by decide
theorem test_wf_off_unaligned : (Stmt.rd 0x02).wellFormed = false := by decide
theorem test_wf_off_outside : (Stmt.wr 0x20 0).wellFormed = false := by decide
theorem test_wf_inner : (Stmt.run (.readTemp 0x80)).wellFormed = false := by decide
theorem test_wf_limits : (Stmt.writeReg 0x7F 1 0xFF).wellFormed = true := by decide

/-! ## A bench: the defaults of R7 with one cycle of quiescence, and the states SR and S0 of 95_test_vectors.md -/

/-- Parameters that meet R7. -/
def benchParams : Params where
  legalAddrs := [0x48#7, 0x49#7, 0x4A#7, 0x4B#7, 0x4C#7, 0x4D#7, 0x4E#7, 0x4F#7]
  cmdTemp := 0x00#8
  cmdConfig := 0x01#8
  probeLen := 1
  sclHz := 100000
  qCycles := 1

/-- SR: after reset. -/
def sr : State := { State.reset with params := benchParams }

/-- S0: after reset and a successful INIT. -/
def s0 : State :=
  { sr with
    cmd := 0x00000001#32
    done := true
    initDone := true
    latch := latchesOf 0x00000001#32 0#32
    busClk := some 100000
    busPullup := true }

/-- The reference target of E1: present, ready, 25 degrees. -/
def ready25 : Target where
  present := true
  shdn := false
  dataRdy := true
  temp := 0x19#8
  ptr := .temp

/-- S0 with that target at 0x4C. -/
def s0T : State := { s0 with targets := [(0x4C#7, ready25)] }

/-- The state a run ends in; reset if it stops. -/
def endOf (o : Host.Outcome State Fault Refusal) : State :=
  match o with
  | .next t => t
  | .fault _ => State.reset
  | .refused _ => State.reset

/-- A command word and then sequencer steps answered by the reference target, until the command is over. -/
def runRef (w : Word) (s : State) : State :=
  endOf (drive (.host (.write .word 0x00#5 w) :: List.replicate 10 .seqRef) s)

/-- What a host then reads: RESULT and STATUS. -/
def seen (s : State) : Word × Word := (s.result, s.statusWord)

/-! ## Each command (vectors of 95_test_vectors.md) -/

/-- I1. -/
theorem test_init : (seen (runRef 0x00000001#32 sr), (runRef 0x00000001#32 sr).busClk) =
    ((0#32, 0x00000006#32), some 100000) := by decide
/-- I2. -/
theorem test_init_again : seen (runRef 0x00000001#32 s0) = (0#32, 0x00000076#32) := by decide
/-- S1. -/
theorem test_probe_present : (seen (runRef 0x00004C02#32 s0T), (runRef 0x00004C02#32 s0T).wire) =
    ((1#32, 0x00000006#32), [.start, .byte 0x99#8, .ack, .byte 0x19#8, .nack, .stop, .quiet]) := by decide
/-- S3. -/
theorem test_probe_absent : (seen (runRef 0x00004802#32 s0T), (runRef 0x00004802#32 s0T).wire) =
    ((0#32, 0x00000006#32), [.start, .byte 0x91#8, .nack, .stop, .quiet]) := by decide
/-- S5. -/
theorem test_readConfig : seen (runRef 0x00004C03#32 s0T) = (0x40#32, 0x00000006#32) := by decide
/-- E4. -/
theorem test_readConfig_absent : seen (runRef 0x00004803#32 s0T) = (0xFF#32, 0x00000016#32) := by decide
/-- E1. -/
theorem test_readTemp : (let t := runRef 0x00004C04#32 { s0T with offset := 0xFFFFFFFC#32 }; (seen t, t.wire)) =
    ((0x15#32, 0x00000106#32),
      [.start, .byte 0x98#8, .ack, .byte 0x01#8, .ack, .restart, .byte 0x99#8, .ack, .byte 0x40#8, .nack, .stop, .quiet,
        .start, .byte 0x98#8, .ack, .byte 0x00#8, .ack, .restart, .byte 0x99#8, .ack, .byte 0x19#8, .nack, .stop,
        .quiet]) := by decide
/-- E2. -/
theorem test_readTemp_notReady :
    seen (runRef 0x00004C04#32 { s0 with targets := [(0x4C#7, { ready25 with dataRdy := false })] }) =
      (0x194#32, 0x00000036#32) := by decide
/-- S22. -/
theorem test_setStandby : (let t := runRef 0x00004C25#32 s0T; (seen t, t.wire, t.targets)) =
    ((0#32, 0x00000006#32),
      [.start, .byte 0x98#8, .ack, .byte 0x01#8, .ack, .byte 0x80#8, .ack, .stop, .quiet],
      [(0x4C#7, { ready25 with shdn := true, dataRdy := false, ptr := .config })]) := by decide
/-- S24. -/
theorem test_setStandby_absent : seen (runRef 0x00004825#32 s0T) = (0#32, 0x00000016#32) := by decide
/-- G2. -/
theorem test_readReg_unsigned :
    seen (runRef 0x00004C06#32 { s0 with targets := [(0x4C#7, { ready25 with temp := 0xE7#8 })] }) =
      (0xE7#32, 0x00000006#32) := by decide
/-- G4: the write is taken and the read is not. -/
theorem test_readReg_readFails :
    seen (endOf (drive
      [.host (.write .word 0x00#5 0x00004C16#32), answer (.good 0#8), answer (.refuse 0), .seq none, .seq none] s0)) =
      (0#32, 0x00000026#32) := by decide
/-- G9: bit 6 of a configuration write is ignored by the reference target. -/
theorem test_writeReg_config : (let t := runRef 0x00404C17#32 s0T; (seen t, t.targets)) =
    ((0#32, 0x00000006#32), [(0x4C#7, { ready25 with ptr := .config })]) := by decide
/-- G8. -/
theorem test_writeReg_absent : seen (runRef 0x00804817#32 s0T) = (0#32, 0x00000016#32) := by decide

/-! ## Host accesses, rejection, reset -/

/-- A8: ILLEGAL_ADDR. -/
theorem test_illegal_addr : seen (runRef 0x00001002#32 s0) = (0#32, 0x00000056#32) := by decide
/-- A2: NOT_INIT. -/
theorem test_not_init : seen (runRef 0x00004C04#32 sr) = (0x194#32, 0x00000062#32) := by decide
/-- A4: ILLEGAL_CMD before NOT_INIT. -/
theorem test_illegal_first : seen (runRef 0x00000000#32 sr) = (0#32, 0x00000042#32) := by decide
/-- H4. -/
theorem test_status_clear :
    (endOf (drive [.host (.write .word 0x04#5 0xFFFFFFFF#32)] s0)).statusWord = 0x00000004#32 := by decide
/-- Steps 1 to 3 of 95_test_vectors.md 2.2: READ_TEMP accepted, PROBE rejected, OFFSET written. -/
def afterReject : State :=
  endOf (drive
    [.host (.write .word 0x00#5 0x00004C04#32), .host (.write .word 0x00#5 0x00004802#32),
      .host (.write .word 0x08#5 100#32)]
    { s0T with offset := 0xFFFFFFFC#32 })

/-- STATUS, CMD and the latched offset after those steps. -/
theorem test_reject_and_snapshot : (let t := afterReject; (t.cmd, t.statusWord, t.offset, t.latch.off)) =
    (0x00004C04#32, 0x0000300D#32, 100#32, 0xFFFFFFFC#32) := by decide

/-- S17: the sum wraps. -/
theorem test_sum_wraps : tempSum 0x7F#8 0x7FFFFFFF#32 = 0x8000007E#32 := by decide
/-- S18. -/
theorem test_sum_wraps_down : tempSum 0x80#8 0x80000000#32 = 0x7FFFFF80#32 := by decide
/-- The program word is the first instruction that runs after reset (log 3). -/
theorem test_fetch :
    (match step (State.reset.withFetchWord 32 0x00004C04) with
      | .next t => (t.cmd, t.result, t.done)
      | .fault _ => (0#32, 0#32, false)
      | .refused _ => (0#32, 0#32, false)) = (0x00004C04#32, 404#32, true) := by decide

/-! ## For each statement with hypotheses, states and operands that meet them -/

/-- S0 is ready for every command with an admissible address. -/
theorem s0_ready (i : Instr) (h : admissible benchParams i.addr = true) : ReadyFor i s0 := ⟨rfl, rfl, rfl, rfl, rfl, h⟩

/-- S0 with its target is ready too. -/
theorem s0T_ready (i : Instr) (h : admissible benchParams i.addr = true) : ReadyFor i s0T := ⟨rfl, rfl, rfl, rfl, rfl, h⟩

/-- PROBE 0x4C in PROBE_RD. -/
def probing : State :=
  { s0 with cmd := 0x00004C02#32, done := false, latch := latchesOf 0x00004C02#32 0#32, seq := .probeRd }

/-- PROBE 0x4C at the end of QUIESCE, the target present. -/
def probeEnding : State :=
  { probing with seq := .quiesce, work := { Working.reset with accOk := true } }

/-- READ_TEMP 0x4C in its first WR_TX. -/
def reading : State :=
  { s0 with
    cmd := 0x00004C04#32
    done := false
    latch := latchesOf 0x00004C04#32 0#32
    work := { Working.reset with accCmdb := 0x01#8 }
    seq := .wrTx }

/-- READ_TEMP 0x4C in its first RD_TX. -/
def readingByte : State := { reading with seq := .rdTx, busHeld := true }

/-- SET_STANDBY 0x4C, 1 in WR_TX. -/
def writing : State :=
  { s0 with
    cmd := 0x00004C25#32
    done := false
    latch := latchesOf 0x00004C25#32 0#32
    work := { Working.reset with accKind := .write, accCmdb := 0x01#8, accData := 0x80#8 }
    seq := .wrTx }

/-- A running command's state on the bench is coherent when its own parts are. -/
theorem bench_coherent {s : State} (hp : s.params = benchParams)
    (hb : s.initDone = true ∧ s.busClk = some 100000 ∧ s.busPullup = true) (hd : s.done = true → s.seq = .idle)
    (hh : s.busHeld = true ↔ s.seq = .rdTx) (hl : s.latch = latchesOf s.cmd s.latch.off)
    (hr : s.seq ≠ .idle → legal s.cmd = true) (hc : s.CommandCoherent) (hq : s.qcnt = 0) (hn : s.inReset = false)
    (ht : s.targets = []) : Coherent s where
  params := by rw [hp]; exact ⟨rfl, by decide, by decide, by decide⟩
  busCfg := .inl ⟨hb.1, by rw [hp]; exact hb.2.1, hb.2.2⟩
  doneIdle := hd
  held := hh
  latched := hl
  legalRuns := hr
  command := hc
  quiet := by rw [hq]; exact Nat.zero_le _
  atReset := fun h => by rw [hn] at h; cases h
  rising := by rw [ht]; rfl
  standby := fun e he => by rw [ht] at he; cases he

theorem s0_coherent : Coherent s0 :=
  bench_coherent rfl (by decide) (by decide) (by decide) (by decide) (by decide) trivial rfl rfl rfl

theorem probing_coherent : Coherent probing :=
  bench_coherent rfl (by decide) (by decide) (by decide) (by decide) (by decide) ⟨rfl, rfl, rfl⟩ rfl rfl rfl

theorem reading_coherent : Coherent reading :=
  bench_coherent rfl (by decide) (by decide) (by decide) (by decide) (by decide)
    ⟨⟨rfl, rfl⟩, .inr (.inr (.inl ⟨rfl, rfl, rfl⟩))⟩ rfl rfl rfl

theorem readingByte_coherent : Coherent readingByte :=
  bench_coherent rfl (by decide) (by decide) (by decide) (by decide) (by decide)
    ⟨⟨rfl, rfl⟩, rfl, .inr (.inr (.inl ⟨rfl, rfl, rfl⟩))⟩ rfl rfl rfl

theorem writing_coherent : Coherent writing :=
  bench_coherent rfl (by decide) (by decide) (by decide) (by decide) (by decide)
    ⟨⟨rfl, rfl⟩, .inr ⟨rfl, rfl, rfl⟩⟩ rfl rfl rfl

theorem witness_EncodeOfDecode : decode 0x00804C17#32 = .ok (.writeReg 0x4C#7 .config 0x80#8) := by decide

theorem witness_TableRowsDisjoint : hitsRow 0x00004C05#32 .setStandby = true := by decide

theorem witness_StepRunsDecodedCommand :
    decode 0x00004C02#32 = .ok (.probe 0x4C#7) ∧ s0.inReset = false ∧
      (let s := { s0 with inputs := [.host (.write .word 0x00#5 0x00004C02#32)] };
        s.inputs = .host (.write .word 0x00#5 0x00004C02#32) :: []) := ⟨by decide, rfl, rfl⟩

theorem witness_BusyControllerRejects : probing.seq ≠ .idle := by decide

/-- One word that starts a sequence, one that completes at once. -/
theorem witness_AcceptanceLatchesWord :
    s0.seq = .idle ∧ (endOf (cmdWrite 0x00004C02#32 s0)).seq ≠ .idle ∧ (endOf (cmdWrite 0#32 s0)).seq = .idle := by
  decide

/-- One word for each of the five clauses: illegal, not initialised, a second INIT, an address beside the admissible ones
(0x47 and 0x50), and words that are dispatched (an INIT, and the lowest and highest admissible address). -/
theorem witness_AcceptanceChecksInOrder :
    s0.seq = .idle ∧ sr.seq = .idle ∧ legal 0#32 = false ∧
      (hitsRow 0x00004C02#32 .probe = true ∧ sr.initDone = false) ∧
      (hitsRow 0x00000001#32 .init = true ∧ s0.initDone = true ∧ sr.initDone = false) ∧
      (hitsRow 0x00004703#32 .readConfig = true ∧ (0x00004703#32).extractLsb' 8 7 ∉ s0.params.legalAddrs ∧
        (0x00005003#32).extractLsb' 8 7 ∉ s0.params.legalAddrs) ∧
      (hitsRow 0x00004803#32 .readConfig = true ∧ (0x00004803#32).extractLsb' 8 7 ∈ s0.params.legalAddrs ∧
        (0x00004F03#32).extractLsb' 8 7 ∈ s0.params.legalAddrs) := by decide

theorem witness_FailureValues : sr.seq = .idle ∧ sr.initDone = false ∧ Instr.readTemp 0x4C#7 ≠ .init := by decide

theorem witness_InadmissibleAddressCompletes :
    s0.seq = .idle ∧ s0.initDone = true ∧ Instr.readConfig 0x47#7 ≠ .init ∧
      (Instr.readConfig 0x47#7).addr ∉ s0.params.legalAddrs := by decide

theorem witness_InitStartsConfiguration : sr.seq = .idle ∧ sr.initDone = false ∧ sr.inReset = false := by decide

theorem witness_SecondInitChangesNothingElse : s0.seq = .idle ∧ s0.initDone = true := by decide

theorem witness_InitConfiguresBus : sr.inReset = false ∧ sr.seq = .idle ∧ sr.initDone = false := by decide

theorem witness_ProbeDispatch : ReadyFor (.probe 0x4C#7) s0 := s0_ready _ (by decide)

theorem witness_ReadCommandsDispatch :
    ReadyFor (.readConfig 0x48#7) s0 ∧ ReadyFor (.readTemp 0x4C#7) s0 ∧ ReadyFor (.readReg 0x4F#7 .config) s0 :=
  ⟨s0_ready _ (by decide), s0_ready _ (by decide), s0_ready _ (by decide)⟩

theorem witness_WriteCommandsDispatch :
    ReadyFor (.setStandby 0x48#7 true) s0 ∧ ReadyFor (.writeReg 0x4F#7 .temp 0xFF#8) s0 :=
  ⟨s0_ready _ (by decide), s0_ready _ (by decide)⟩

theorem witness_SequencerRefinesCommands : Instr.readTemp 0x4C#7 ≠ .init ∧ ReadyFor (.readTemp 0x4C#7) s0 :=
  ⟨by decide, s0_ready _ (by decide)⟩

theorem witness_ReadCommandsReturnByte :
    ReadyFor (.readReg 0x4C#7 .temp) s0 ∧ ReadyFor (.readConfig 0x4C#7) s0 ∧
      (BusDraw.good 0#8).takesCommand 0x4C#7 0x00#8 ∧ (BusDraw.good 0#8).takesCommand 0x4C#7 0x01#8 ∧
      (BusDraw.good 0xFF#8).sendsByte 0x4C#7 :=
  ⟨s0_ready _ (by decide), s0_ready _ (by decide), rfl, rfl, rfl⟩

/-- The address byte refused, and the command byte refused. -/
theorem witness_RefusedCommandByteEndsRead :
    ReadyFor (.readTemp 0x4C#7) s0 ∧ (busWrite 0x4C#7 [0x01#8] false (.refuse 0)).outcome = .fail ∧
      (busWrite 0x4C#7 [0x01#8] false (.refuse 1)).outcome = .fail := ⟨s0_ready _ (by decide), by decide, by decide⟩

theorem witness_FailedReadEndsCommand :
    ReadyFor (.readConfig 0x4C#7) s0 ∧ (BusDraw.good 0#8).takesCommand 0x4C#7 0x01#8 ∧
      (busRead 0x4C#7 1 true true (.refuse 0)).outcome = .fail := ⟨s0_ready _ (by decide), rfl, by decide⟩

theorem witness_WriteCommandsComplete :
    ReadyFor (.writeReg 0x4C#7 .config 0x80#8) s0 ∧ ReadyFor (.setStandby 0x4C#7 true) s0 :=
  ⟨s0_ready _ (by decide), s0_ready _ (by decide)⟩

theorem witness_ReadTempReturnsSum :
    ReadyFor (.readTemp 0x4C#7) s0 ∧ (BusDraw.good 0#8).takesCommand 0x4C#7 0x01#8 ∧
      (BusDraw.good 0#8).takesCommand 0x4C#7 0x00#8 ∧ (BusDraw.good 0x40#8).sendsByte 0x4C#7 ∧
      (BusDraw.good 0x40#8).data.getLsbD 6 = true :=
  ⟨s0_ready _ (by decide), rfl, rfl, rfl, by decide⟩

theorem witness_NotReadyDominates :
    ReadyFor (.readTemp 0x4C#7) s0 ∧ (BusDraw.good 0#8).takesCommand 0x4C#7 0x01#8 ∧
      (BusDraw.good 0xBF#8).sendsByte 0x4C#7 ∧ (BusDraw.good 0xBF#8).data.getLsbD 6 = false :=
  ⟨s0_ready _ (by decide), rfl, rfl, by decide⟩

theorem witness_TemperatureAccessFailure :
    ReadyFor (.readTemp 0x4C#7) s0 ∧ (BusDraw.good 0#8).takesCommand 0x4C#7 0x01#8 ∧
      (BusDraw.good 0#8).takesCommand 0x4C#7 0x00#8 ∧ (BusDraw.good 0x40#8).sendsByte 0x4C#7 ∧
      (BusDraw.good 0x40#8).data.getLsbD 6 = true ∧
      (busWrite 0x4C#7 [0x00#8] false (.refuse 1)).outcome = .fail ∧
      (busRead 0x4C#7 1 true true (.refuse 0)).outcome = .fail :=
  ⟨s0_ready _ (by decide), rfl, rfl, rfl, by decide, by decide, by decide⟩

/-- Both ends of the exact range of R173. -/
theorem witness_TemperatureSumRange :
    (-2 ^ 31 + 128 ≤ (0x80000080#32).toInt ∧ (0x80000080#32).toInt ≤ 2 ^ 31 - 1 - 127) ∧
      (-2 ^ 31 + 128 ≤ (0x7FFFFF80#32).toInt ∧ (0x7FFFFF80#32).toInt ≤ 2 ^ 31 - 1 - 127) := by decide

/-- A reading and an offset, with the sum in range; the other hypotheses are those of ReadTempReturnsSum. -/
theorem witness_OffsetIsLinear :
    ReadyFor (.readTemp 0x4C#7) { s0 with offset := 0xFFFFFFFC#32 } ∧ (BusDraw.good 0#8).takesCommand 0x4C#7 0x01#8 ∧
      (BusDraw.good 0#8).takesCommand 0x4C#7 0x00#8 ∧ (BusDraw.good 0x40#8).sendsByte 0x4C#7 ∧
      (BusDraw.good 0x40#8).data.getLsbD 6 = true ∧ (BusDraw.good 0x19#8).sendsByte 0x4C#7 ∧
      -2 ^ 31 ≤ (0x19#32).toInt + (0xFFFFFFFC#32).toInt ∧ (0x19#32).toInt + (0xFFFFFFFC#32).toInt < 2 ^ 31 :=
  ⟨⟨rfl, rfl, rfl, rfl, rfl, by decide⟩, rfl, rfl, rfl, by decide, rfl, by decide, by decide⟩

/-- Two idle machines that differ in the earlier command, and a run of the first. -/
theorem witness_CommandsIgnoreEarlierOutputs :
    (let s' := { s0 with cmd := 0#32, result := 7#32, code := .failRead };
      s'.seq = .idle ∧ s0.seq = .idle ∧ s'.params = s0.params ∧ s'.initDone = s0.initDone ∧ s'.offset = s0.offset) ∧
      (endOf (drive (.host (issueAccess (.probe 0x4C#7)) :: [some (BusDraw.good 0#8)].map Input.seq) s0)).seq = .quiesce := by
  decide

theorem witness_QuiescenceCountsDown : probeEnding.inReset = false ∧ probeEnding.seq = .quiesce := by decide

/-- The held command byte taken, and the two ends of a read. -/
theorem witness_TransactionEndsHeldOrQuiet :
    reading.seq.inTransaction = true ∧ (endOf (seqStep (some (.good 0#8)) reading)).seq = .rdTx ∧
      (endOf (seqStep (some (.refuse 0)) reading)).seq = .quiesce ∧
      (endOf (seqStep (some (.good 0#8)) readingByte)).seq = .quiesce := by decide

/-- Each kind of transaction, and a coherent state in which none runs. -/
theorem witness_TransactionsKeepTheirShape :
    (Coherent reading ∧ reading.runningTx = some (.write 0x4C#7 [0x01#8] false)) ∧
      (Coherent writing ∧ writing.runningTx = some (.write 0x4C#7 [0x01#8, 0x80#8] true)) ∧
      (Coherent readingByte ∧ readingByte.runningTx = some (.read 0x4C#7 1 true)) ∧
      (Coherent probing ∧ probing.runningTx = some (.read 0x4C#7 1 true)) :=
  ⟨⟨reading_coherent, by decide⟩, ⟨writing_coherent, by decide⟩, ⟨readingByte_coherent, by decide⟩,
    ⟨probing_coherent, by decide⟩⟩

/-- A step that takes place, in which the wire grows. -/
theorem witness_TrafficOnlyInTransactions :
    (endOf (step { probing with inputs := [answer (.good 0x19#8)] })).wire =
      [.start, .byte 0x99#8, .ack, .byte 0x19#8, .nack, .stop] := by decide

/-- A draw that fails the transaction for another cause at a position (R126). -/
def broken (k : Nat) : BusDraw := { BusDraw.good 0x19#8 with brokenAt := some k }

/-- The last byte refused, a position just past it, and the last position that breaks a write and the first that does
not. -/
theorem witness_WriteSucceedsWhenAcknowledged :
    (BusDraw.refuse 2).brokenAt = none ∧ (BusDraw.refuse 2).nackAt = some 2 ∧ 2 ≤ [0x01#8, 0x80#8].length ∧
      (BusDraw.refuse 3).nackAt = some 3 ∧ [0x01#8, 0x80#8].length < 3 ∧
      (broken 3).brokenAt = some 3 ∧ 3 ≤ [0x01#8, 0x80#8].length + 1 ∧
      (broken 4).brokenAt = some 4 ∧ [0x01#8, 0x80#8].length + 1 < 4 ∧ (broken 4).nackAt = none := by decide

theorem witness_WriteTraffic :
    (BusDraw.refuse 2).brokenAt = none ∧ (BusDraw.refuse 2).nackAt = some 2 ∧
      (addrByte 0x4C#7 false :: [0x01#8, 0x80#8])[2]? = some 0x80#8 ∧
      (BusDraw.refuse 0).nackAt = some 0 ∧ (addrByte 0x4C#7 false :: [0x01#8, 0x80#8])[0]? = some 0x98#8 := by decide

theorem witness_ReadTransaction :
    (BusDraw.refuse 0).brokenAt = none ∧ (BusDraw.refuse 0).nackAt = some 0 ∧ (BusDraw.good 0#8).nackAt ≠ some 0 ∧
      (broken 1).brokenAt = some 1 ∧ 1 ≤ (0 : Fin 2).val + 1 ∧ (broken 2).brokenAt = some 2 ∧
      (0 : Fin 2).val + 1 < 2 ∧ 2 ≤ (1 : Fin 2).val + 1 ∧ (broken 3).brokenAt = some 3 ∧ (1 : Fin 2).val + 1 < 3 := by
  decide

theorem witness_HungTransactionNeverEnds :
    (let s := { probing with inputs := [.host (.read .word 0x04#5), .cycle false none none, .seq none] };
      s.inReset = false ∧ s.done = false ∧ s.seq.inTransaction = true ∧ (∀ x ∈ s.inputs, x.silent = true)) := by decide

theorem witness_CommandsTerminate :
    Coherent probing ∧ probing.seq ≠ .idle ∧
      2 * probing.params.qCycles + 8 ≤ (List.replicate 10 (BusDraw.good 0#8)).length :=
  ⟨probing_coherent, by decide, by decide⟩

theorem witness_StepsKeepCoherence : Coherent reading ∧ ∃ t, step reading = .next t := ⟨reading_coherent, _, rfl⟩

theorem witness_CoherentStatesNeverFault : Coherent writing := writing_coherent

/-- A misaligned access, and an access while reset is asserted. -/
theorem witness_OnlyHostAccessesRefused :
    step { s0 with inputs := [.host (.read .word 0x02#5)] } = .refused .hostAccessNotWord ∧
      step { s0 with inReset := true, inputs := [.host (.read .word 0x04#5)] } = .refused .hostAccessInReset := ⟨rfl, rfl⟩

theorem witness_HostReadsRegisters :
    s0.inReset = false ∧ (∀ off ∈ [0x00#5, 0x04#5, 0x08#5, 0x0C#5, 0x10#5, 0x1C#5], off.toNat % 4 = 0) := by decide

theorem witness_HostWritesRegisters :
    s0.inReset = false ∧
      (∀ off ∈ [0x00#5, 0x04#5, 0x08#5, 0x0C#5, 0x10#5, 0x1C#5], off.toNat % 4 = 0) := by decide

theorem witness_NarrowAccessesRefused :
    s0.inReset = false ∧ AccessSize.half ≠ .word ∧ (∀ off ∈ [0x01#5, 0x1E#5], off.toNat % 4 ≠ 0) := by decide

/-- A rejected CMD write while PROBE runs. -/
theorem witness_HostAccessesDoNotDisturb :
    probing.seq ≠ .idle ∧ probing.done = false ∧
      (∃ h, hostStep (.write .word 0x00#5 0x00000001#32) probing = .next h) ∧
      ∃ t, seqStep (some (.good 0#8)) probing = .next t := ⟨by decide, by decide, ⟨_, rfl⟩, ⟨_, rfl⟩⟩

theorem witness_OutcomePublishedAtomically :
    (endOf (step probeEnding)).result ≠ probeEnding.result ∧ (endOf (step probeEnding)).done = true := by decide

theorem witness_InitStaysUntilReset : Coherent s0 ∧ s0.initDone = true ∧ ∃ t, step s0 = .next t :=
  ⟨s0_coherent, rfl, _, rfl⟩

theorem witness_RejectedIsSticky :
    (let s := { s0 with rejected := true, inputs := [.host (.write .word 0x04#5 0x00000008#32)] };
      s.rejected = true ∧ (endOf (step s)).rejected = false) := by decide

theorem witness_OffsetWrittenByHostOnly :
    (endOf (step { s0 with inputs := [.host (.write .word 0x08#5 0xFFFFFFFC#32)] })).offset ≠ s0.offset := by decide

theorem witness_ResetRestoresEveryRegister :
    (let s := { readingByte with inputs := [.rst true] }; s.inputs = .rst true :: []) := by decide

theorem witness_AssertedResetHoldsController :
    (let s := { s0 with inReset := true }; s.inReset = true ∧ s.inputs = []) := by decide

/-- PROBE completes in the cycle. -/
theorem witness_SameCyclePriorities :
    probeEnding.seq ≠ .idle ∧ probeEnding.done = false ∧ (endOf (seqStep none probeEnding)).done = true ∧
      (endOf (seqStep none probeEnding)).seq = .idle := by decide

theorem witness_ProbeIsPure :
    ReadyFor (.probe 0x4C#7) s0T ∧ ReadyFor (.probe 0x48#7) s0T ∧ targetsRising s0T.targets = true :=
  ⟨s0T_ready _ (by decide), s0T_ready _ (by decide), by decide⟩

theorem witness_StandbyReadBack :
    ReadyFor (.setStandby 0x4C#7 true) s0T ∧ s0T.params.cmdTemp ≠ s0T.params.cmdConfig ∧
      targetsRising s0T.targets = true ∧ targetAt s0T.targets 0x4C#7 = some ready25 ∧ ready25.present = true :=
  ⟨s0T_ready _ (by decide), by decide, by decide, by decide, by decide⟩

/-- A target that converts; one in standby, which does not, meets the hypotheses too. -/
theorem witness_ConversionSetsReady :
    (let s := { s0T with inputs := [.convert 0x4C#7 0xE7#8] };
      s.inputs = .convert 0x4C#7 0xE7#8 :: [] ∧ targetsRising s.targets = true ∧
        targetAt s.targets 0x4C#7 = some ready25) ∧
      targetAt [(0x4C#7, { ready25 with shdn := true })] 0x4C#7 = some { ready25 with shdn := true } := by decide

/-- E8, with the statement's own script. -/
theorem test_standby_read_back :
    (endOf (drive (standbyReadBackScript benchParams 0x4C#7 true) s0T)).result = 0x80#32 := by decide

/-- The statement's script for READ_TEMP ends the command. -/
theorem test_readTempScript :
    seen (endOf (drive
      (readTempScript benchParams 0x4C#7 (.good 0#8) (.good 0x40#8) [answer (.good 0#8), answer (.good 0xE7#8)]) s0)) =
      (0xFFFFFFE7#32, 0x00000106#32) := by decide

end Sys2Proof.Tests
end

section
/-! SUPPORT. The host port's rules in terms of the offset's number, and the statements of 20_memory.md about host writes
and refused accesses. -/

namespace Sys2Proof.Proofs

open Sys2Proof.Machine

/-! ## Offsets -/

/-- R77's two conditions as numbers: the width is a word and the offset a multiple of 4. -/
theorem wholeWord_iff (size : AccessSize) (off : HostOff) :
    wholeWord size off = true ↔ size = .word ∧ off.toNat % 4 = 0 := by
  have hlow : off.extractLsb' 0 2 = 0#2 ↔ off.toNat % 4 = 0 := by
    simp [← BitVec.toNat_inj, BitVec.extractLsb'_toNat]
  simp [wholeWord, hlow]

/-- The decoder's field `off[4:2]` (R71) is the number of the word in the window. -/
theorem wordIndex_eq_iff (off : HostOff) (n : BitVec 3) :
    off.extractLsb' 2 3 = n ↔ off.toNat / 4 = n.toNat := by
  have hlt : off.toNat / 4 < 8 := by omega
  rw [← BitVec.toNat_inj, BitVec.extractLsb'_toNat, Nat.shiftRight_eq_div_pow, Nat.mod_eq_of_lt hlt]

/-- The table of R72 for aligned offsets. -/
theorem hostReg_of_aligned {off : HostOff} (hal : off.toNat % 4 = 0) :
    hostReg off =
      if off.toNat = 0x00 then .cmd
      else if off.toNat = 0x04 then .status
      else if off.toNat = 0x08 then .offset
      else if off.toNat = 0x0C then .result
      else .unmapped := by
  have hword (k : Nat) : off.toNat / 4 = k ↔ off.toNat = 4 * k := by omega
  simp [hostReg, wordIndex_eq_iff, hword]

/-! ## Host accesses as steps -/

/-- A waiting input is the next step (R85, log 1). -/
theorem step_of_inputs_cons {s : State} {x : Input} {rest : List Input} (hin : s.inputs = x :: rest) :
    step s = applyInput x { s with inputs := rest } := by
  simp only [step, takeInput, hin]

/-- With reset released, an aligned word write is HostWrite (R79). -/
theorem hostStep_write_of_wholeWord {size : AccessSize} {off : HostOff} {s : State} (v : Word)
    (hrst : s.inReset = false) (hw : wholeWord size off = true) :
    hostStep (.write size off v) s = hostWrite off v s := by
  simp [hostStep, hrst, hw]

/-- With reset released, a read of any other shape is refused (R77). -/
theorem hostStep_read_refused {size : AccessSize} {off : HostOff} {s : State}
    (hrst : s.inReset = false) (hw : wholeWord size off = false) :
    hostStep (.read size off) s = .refused .hostAccessNotWord := by
  simp [hostStep, hrst, hw]

/-- The same for a write. -/
theorem hostStep_write_refused {size : AccessSize} {off : HostOff} {s : State} (v : Word)
    (hrst : s.inReset = false) (hw : wholeWord size off = false) :
    hostStep (.write size off v) s = .refused .hostAccessNotWord := by
  simp [hostStep, hrst, hw]

/-! ## What a write does -/

/-- A STATUS write clears DONE and REJECTED bit by bit (R79). -/
theorem clearStatus_eq (v : Word) (s : State) :
    s.clearStatus v =
      { s with
        done := if v.getLsbD 1 then false else s.done
        rejected := if v.getLsbD 3 then false else s.rejected } := by
  have hclear (b c : Bool) : (b && !c) = if c then false else b := by cases c <;> simp
  simp only [State.clearStatus, hclear]

/-- HostWrite (R79) at an aligned offset, by the number of the offset. -/
theorem hostWrite_of_aligned {off : HostOff} (v : Word) (s : State) (hal : off.toNat % 4 = 0) :
    hostWrite off v s =
      if off.toNat = 0x00 then cmdWrite v s
      else if off.toNat = 0x04 then .next (s.clearStatus v)
      else if off.toNat = 0x08 then .next { s with offset := v }
      else .next s := by
  rw [hostWrite, hostReg_of_aligned hal]
  split_ifs <;> rfl

/-- Settles O47: the step is HostWrite, which the offset's number decides. -/
theorem hostWritesRegisters : Obligations.HostWritesRegisters := by
  intro s off v rest hrst hin hal
  have hw : wholeWord .word off = true := (wholeWord_iff _ _).2 ⟨rfl, hal⟩
  calc step s
      = hostStep (.write .word off v) { s with inputs := rest } := step_of_inputs_cons hin
    _ = hostWrite off v { s with inputs := rest } := hostStep_write_of_wholeWord v hrst hw
    _ = _ := by rw [hostWrite_of_aligned v _ hal, clearStatus_eq]

/-- Settles O48: such an access is no whole word, and the host step refuses it in either direction. -/
theorem narrowAccessesRefused : Obligations.NarrowAccessesRefused := by
  intro s size off v rest hrst hshape
  have hw : wholeWord size off = false := by
    rw [Bool.eq_false_iff, Ne, wholeWord_iff]
    rintro ⟨hsize, hal⟩
    exact hshape.elim (· hsize) (· hal)
  constructor <;> intro hin
  · exact (step_of_inputs_cons hin).trans (hostStep_read_refused hrst hw)
  · exact (step_of_inputs_cons hin).trans (hostStep_write_refused v hrst hw)

end Sys2Proof.Proofs
end

section
/-! SUPPORT. Legality and the decoder in terms of the rows of R103, and the statements of 30_encoding.md about legal words
and about the example words. -/

namespace Sys2Proof.Proofs

open Sys2Proof.Laws

/-! ## Legal words -/

/-- The list of rows leaves no opcode out. -/
theorem mem_allOpcodes (op : Opcode) : op ∈ allOpcodes := by cases op <;> decide

theorem legal_iff_exists_hitsRow (w : Word) : legal w = true ↔ ∃ op, hitsRow w op = true := by
  simp [legal, mem_allOpcodes]

/-- The rows of R103 one by one. -/
theorem legal_iff_hitsRow (w : Word) :
    legal w = true ↔
      hitsRow w .init = true ∨ hitsRow w .probe = true ∨ hitsRow w .readConfig = true ∨ hitsRow w .readTemp = true ∨
        hitsRow w .setStandby = true ∨ hitsRow w .readReg = true ∨ hitsRow w .writeReg = true := by
  simp [legal, allOpcodes]

/-! ## The decoder -/

/-- The OP field of a word that hits a row is the row's opcode, so the decoder looks at that row and at no other. -/
theorem decode_of_hitsRow {w : Word} {op : Opcode} (h : hitsRow w op = true) : decode w = .ok (readFields op w) := by
  simp [decode, fieldOp_of_hitsRow h, h]

/-- A decoded word hits a row, and its command is what that row reads from it. -/
theorem decode_eq_ok_iff {w : Word} {i : Instr} :
    decode w = .ok i ↔ ∃ op, hitsRow w op = true ∧ readFields op w = i := by
  constructor
  · intro h
    unfold decode at h
    split at h
    next op _ =>
      split at h
      next hrow => exact ⟨op, hrow, Except.ok.inj h⟩
      next => cases h
    next => cases h
  · rintro ⟨op, hrow, rfl⟩
    exact decode_of_hitsRow hrow

/-- Settles O3: a word is legal when it hits a row of the table, and the decoder answers a command on just those words. -/
theorem legalExactlyOnTableRows : Obligations.LegalExactlyOnTableRows := by
  intro w
  constructor
  · rw [legal_iff_hitsRow]
    simp only [hitsRow, beq_iff_eq, rowMask, rowMatch]
  · calc legal w = true
        ↔ ∃ op, hitsRow w op = true := legal_iff_exists_hitsRow w
      _ ↔ ∃ i op, hitsRow w op = true ∧ readFields op w = i :=
        ⟨fun ⟨op, hrow⟩ => ⟨_, op, hrow, rfl⟩, fun ⟨_, op, hrow, _⟩ => ⟨op, hrow⟩⟩
      _ ↔ ∃ i, decode w = .ok i := by simp only [decode_eq_ok_iff]

/-! ## The example words -/

/-- Settles O6: each command word hits the row named here, and its fields are the operands of R111; the two illegal words
hit no row. -/
theorem exampleWordsDecode : Obligations.ExampleWordsDecode := by
  have hlegal : legal 0x00001002#32 = true := (legal_iff_exists_hitsRow _).2 ⟨.probe, rfl⟩
  have haddr : 0x10#7 ∉ Params.default.legalAddrs := by decide
  exact
    ⟨decode_of_hitsRow (op := .init) rfl,
     decode_of_hitsRow (op := .probe) rfl,
     decode_of_hitsRow (op := .probe) rfl,
     decode_of_hitsRow (op := .readConfig) rfl,
     decode_of_hitsRow (op := .readConfig) rfl,
     decode_of_hitsRow (op := .readTemp) rfl,
     decode_of_hitsRow (op := .setStandby) rfl,
     decode_of_hitsRow (op := .setStandby) rfl,
     decode_of_hitsRow (op := .readReg) rfl,
     decode_of_hitsRow (op := .readReg) rfl,
     decode_of_hitsRow (op := .writeReg) rfl,
     decode_of_hitsRow (op := .writeReg) rfl,
     decode_of_hitsRow (op := .probe) rfl,
     by decide, by decide, hlegal, haddr⟩

end Sys2Proof.Proofs
end

section
/-! SUPPORT. The word of a decoded command (R101, R103), what a CMD write does in an idle controller, and the statements of
41_sequencer.md about rejection and acceptance. -/

namespace Sys2Proof.Proofs

open Sys2Proof.Laws Sys2Proof.Machine

/-! ## The word of a decoded command -/

/-- Every mask of R103 covers the reserved bits, and every match leaves them 0. -/
theorem reserved_zero_of_hitsRow {w : Word} {op : Opcode} (h : hitsRow w op = true) : w &&& reservedMask = 0#32 := by
  have hcover : rowMask op &&& reservedMask = reservedMask := by cases op <;> rfl
  have hmatch : rowMatch op &&& reservedMask = 0#32 := by cases op <;> rfl
  have hrow : w &&& rowMask op = rowMatch op := beq_iff_eq.1 h
  rw [← hcover, ← BitVec.and_assoc, hrow, hmatch]

/-- The fields of R101 and the reserved bits are all there is of a word. -/
theorem layWord_fields {w : Word} (h : w &&& reservedMask = 0#32) :
    layWord (fieldValue w) (fieldAddr w) (fieldEn w) (fieldReg w) (fieldOp w) = w := by
  apply BitVec.eq_of_getLsbD_eq
  intro i hi
  have hreserved : (w.getLsbD i && reservedMask.getLsbD i) = false := by
    rw [← BitVec.getLsbD_and, h, BitVec.getLsbD_zero]
  rw [getLsbD_layWord]
  interval_cases i <;> simp_all [reservedMask, fieldValue, fieldAddr, fieldEn, fieldReg, fieldOp]

/-- A field of a word that hits a row agrees with the row's match wherever the row's mask is 1. -/
theorem fields_of_hitsRow {w : Word} {op : Opcode} (h : hitsRow w op = true) :
    fieldValue w &&& fieldValue (rowMask op) = fieldValue (rowMatch op) ∧
    fieldAddr w &&& fieldAddr (rowMask op) = fieldAddr (rowMatch op) ∧
    (fieldEn w && fieldEn (rowMask op)) = fieldEn (rowMatch op) ∧
    (fieldReg w && fieldReg (rowMask op)) = fieldReg (rowMatch op) := by
  have hrow : w &&& rowMask op = rowMatch op := beq_iff_eq.1 h
  simp only [← hrow, fieldValue, fieldAddr, fieldEn, fieldReg, BitVec.extractLsb'_and, BitVec.getLsbD_and, and_self]

/-- The field a row does not use is under its mask and 0 in its match (R103). -/
theorem unused_fields_of_hitsRow {w : Word} {op : Opcode} (h : hitsRow w op = true) :
    (op ≠ .writeReg → fieldValue w = 0#8) ∧
    (op = .init → fieldAddr w = 0#7) ∧
    (op ≠ .setStandby → fieldEn w = false) ∧
    (op ≠ .readReg ∧ op ≠ .writeReg → fieldReg w = false) := by
  have hvalueRow : op ≠ .writeReg → fieldValue (rowMask op) = BitVec.allOnes 8 ∧ fieldValue (rowMatch op) = 0#8 := by
    cases op <;> decide
  have haddrRow : op = .init → fieldAddr (rowMask op) = BitVec.allOnes 7 ∧ fieldAddr (rowMatch op) = 0#7 := by
    cases op <;> decide
  have henRow : op ≠ .setStandby → fieldEn (rowMask op) = true ∧ fieldEn (rowMatch op) = false := by
    cases op <;> decide
  have hregRow : op ≠ .readReg ∧ op ≠ .writeReg → fieldReg (rowMask op) = true ∧ fieldReg (rowMatch op) = false := by
    cases op <;> decide
  obtain ⟨hvalue, haddr, hen, hreg⟩ := fields_of_hitsRow h
  refine ⟨fun hop => ?_, fun hop => ?_, fun hop => ?_, fun hop => ?_⟩
  · obtain ⟨hmask, hmatch⟩ := hvalueRow hop
    rwa [hmask, hmatch, BitVec.and_allOnes] at hvalue
  · obtain ⟨hmask, hmatch⟩ := haddrRow hop
    rwa [hmask, hmatch, BitVec.and_allOnes] at haddr
  · obtain ⟨hmask, hmatch⟩ := henRow hop
    rwa [hmask, hmatch, Bool.and_true] at hen
  · obtain ⟨hmask, hmatch⟩ := hregRow hop
    rwa [hmask, hmatch, Bool.and_true] at hreg

/-- The encoder undoes the reading of a row's fields: it puts 0 where the row has no field, and so does the word. -/
theorem encode_readFields {w : Word} {op : Opcode} (h : hitsRow w op = true) : encode (readFields op w) = w := by
  obtain ⟨hvalue, haddr, hen, hreg⟩ := unused_fields_of_hitsRow h
  calc encode (readFields op w)
      = layWord (fieldValue w) (fieldAddr w) (fieldEn w) (fieldReg w) (opBits op) := by
        cases op <;> simp [encode, readFields, hvalue, haddr, hen, hreg]
    _ = w := by rw [← fieldOp_of_hitsRow h, layWord_fields (reserved_zero_of_hitsRow h)]

/-- No bit of a legal word is dropped by the decoder. -/
theorem encode_of_decode {w : Word} {i : Instr} (h : decode w = .ok i) : encode i = w := by
  obtain ⟨op, hrow, rfl⟩ := decode_eq_ok_iff.1 h
  exact encode_readFields hrow

/-! ## A CMD write -/

/-- Settles O10: a busy controller answers a word and a command alike, by Reject. -/
theorem busyControllerRejects : Obligations.BusyControllerRejects := by
  intro s w hbusy
  exact ⟨cmdWrite_busy w s hbusy, fun i => exec_busy i s hbusy⟩

/-- An idle controller accepts the word itself, and then checks and dispatches the command in it (R140, R142, R143). -/
theorem cmdWrite_idle_of_decode_ok {w : Word} {i : Instr} {s : State} (hidle : s.seq = .idle) (hdec : decode w = .ok i) :
    cmdWrite w s = .next (bodyOf i.opcode (s.accept w)) := by
  simp only [cmdWrite_eq, hdec, encode_of_decode hdec, issue_idle _ _ _ hidle]

/-- It accepts a word that is no command too, and completes it at once (R106, R143). -/
theorem cmdWrite_idle_of_decode_error {w : Word} {e : DecodeError} {s : State} (hidle : s.seq = .idle)
    (hdec : decode w = .error e) :
    cmdWrite w s = .next ((s.accept w).complete .illegalCmd 0#32 false) := by
  simp only [cmdWrite_eq, hdec, issue_idle _ _ _ hidle]

/-- What a CMD write can do in an idle controller: the accepted word completes in the same step, or the sequencer starts
on it. -/
theorem cmdWrite_idle_cases (w : Word) {s : State} (hidle : s.seq = .idle) :
    (∃ c r, cmdWrite w s = .next ((s.accept w).complete c r false)) ∨
    (∃ x k, x ≠ .idle ∧ cmdWrite w s = .next { s.accept w with seq := x, work := k }) := by
  cases hdec : decode w with
  | error e => exact .inl ⟨_, _, cmdWrite_idle_of_decode_error hidle hdec⟩
  | ok i =>
    rw [cmdWrite_idle_of_decode_ok hidle hdec]
    rcases bodyOf_cases i.opcode (s.accept w) with ⟨c, r, hbody⟩ | ⟨x, k, hx, hbody⟩
    · exact .inl ⟨c, r, congrArg _ hbody⟩
    · exact .inr ⟨x, k, hx, congrArg _ hbody⟩

/-- Settles O11: completing in the accepting step and starting the sequencer both keep what Accept wrote; the first leaves
the controller idle with DONE set, the second leaves it busy with the outcome untouched. -/
theorem acceptanceLatchesWord : Obligations.AcceptanceLatchesWord := by
  intro s w hidle
  rcases cmdWrite_idle_cases w hidle with ⟨c, r, hstep⟩ | ⟨x, k, hx, hstep⟩
  · exact ⟨_, hstep, rfl, rfl, rfl, rfl, rfl, fun hrun => absurd rfl hrun, fun _ => rfl⟩
  · exact ⟨_, hstep, rfl, rfl, rfl, rfl, rfl, fun _ => ⟨rfl, rfl, rfl, rfl⟩, fun hstop => absurd hstop hx⟩

end Sys2Proof.Proofs
end

section
/-! SUPPORT. A read access that succeeds and its quiescence interval as one run (R160, R146, R127), READ_TEMP's run on top
of it, and the statements of 43_sensor_ops.md about a sensor that is not ready and about the offset. -/

namespace Sys2Proof.Proofs

open Sys2Proof.Laws Sys2Proof.Machine

/-! ## Issuing a command -/

/-- The row lemmas of every command as one. -/
theorem encodedFields (i : Instr) : EncodedFields.Statement i := by
  cases i with
  | init => exact EncodedFields.init
  | probe a => exact EncodedFields.probe a
  | readConfig a => exact EncodedFields.readConfig a
  | readTemp a => exact EncodedFields.readTemp a
  | setStandby a e => exact EncodedFields.setStandby a e
  | readReg a r => exact EncodedFields.readReg a r
  | writeReg a r v => exact EncodedFields.writeReg a r v

@[simp] theorem readFields_opcode (op : Opcode) (w : Word) : (readFields op w).opcode = op := by cases op <;> rfl

theorem opcode_eq_init {i : Instr} (h : i.opcode = .init) : i = .init := by
  cases i with
  | init => rfl
  | _ => cases h

/-- With reset released, a word written to CMD is a CMD write of it (R72, R77, R79). -/
theorem hostStep_issueAccess {i : Instr} {s : State} (hrst : s.inReset = false) :
    hostStep (issueAccess i) s = cmdWrite (encode i) s :=
  hostStep_write_of_wholeWord (encode i) hrst rfl

/-- A command that is ready passes every check of R143 and is dispatched in its accepting step. -/
theorem issue_ready {i : Instr} {s : State} (hinit : i ≠ .init) (h : ReadyFor i s) :
    applyInput (.host (issueAccess i)) s = .next (dispatchOf i.opcode (s.accept (encode i))) := by
  obtain ⟨hrow, _, hfield⟩ := encodedFields i
  have hop : i.opcode ≠ .init := fun hop => hinit (opcode_eq_init hop)
  have haddr : admissible (s.accept (encode i)).params (s.accept (encode i)).latch.addr = true := by
    simpa [latchesOf, hfield] using h.addr
  calc applyInput (.host (issueAccess i)) s
      = cmdWrite (encode i) s := hostStep_issueAccess h.notInReset
    _ = .next (bodyOf i.opcode (s.accept (encode i))) := by
        rw [cmdWrite_idle_of_decode_ok h.idle (decode_of_hitsRow hrow), readFields_opcode]
    _ = .next (dispatchOf i.opcode (s.accept (encode i))) := by
        rw [bodyOf_eq _ hop, checkedDispatch_legal _ _ (s.accept (encode i)) h.initDone haddr]

/-! ## Transactions that succeed -/

/-- Bytes that are all taken show on the wire as R122 says. -/
theorem sendBytes_wire_of_taken {d : BusDraw} {k : Nat} {l : List Byte} (h : (sendBytes d k l).2 = true) :
    (sendBytes d k l).1 = takenBytes l := by
  induction l generalizing k with
  | nil =>
    unfold sendBytes at h ⊢
    split at h
    · cases h
    · next hbroken => rw [if_neg hbroken]; rfl
  | cons b l ih =>
    unfold sendBytes at h ⊢
    split at h
    · cases h
    · next hbroken =>
      split at h
      · cases h
      · next hnack => rw [if_neg hbroken, if_neg hnack]; exact congrArg _ (congrArg _ (ih h))

/-- A held command byte that is taken leaves the bus held and shows `S W(a) A c A` (R122). -/
theorem busWrite_of_takesCommand {a : BusAddr} {c : Byte} {d : BusDraw} (h : d.takesCommand a c) :
    busWrite a [c] false d =
      { outcome := .count 1
        held := true
        wire := [.start, .byte (addrByte a false), .ack, .byte c, .ack] } := by
  unfold BusDraw.takesCommand busWrite at h
  unfold busWrite
  simp only at h ⊢
  split at h
  · next htaken => rw [if_pos htaken, sendBytes_wire_of_taken htaken]; rfl
  · cases h

/-- A read of one byte that succeeds from a held bus releases it and shows `Sr R(a) A b N P` (R124). -/
theorem busRead_of_sendsByte {a : BusAddr} {d : BusDraw} (h : d.sendsByte a) :
    busRead a 1 true true d =
      { outcome := .bytes [d.data]
        held := false
        wire := [.restart, .byte (addrByte a true), .ack, .byte d.data, .nack, .stop] } := by
  unfold BusDraw.sendsByte busRead at h
  unfold busRead
  simp only at h ⊢
  split_ifs at h with hbroken hnack hbyte hlen hdata
  · exact absurd hlen (by decide)
  · rw [if_neg hbroken, if_neg hnack, if_neg hbyte, if_neg hlen, if_neg hdata]; rfl

/-! ## Sequencer steps and runs -/

/-- With reset released, a sequencer input is a sequencer step (R146, R240). -/
theorem applyInput_seq {d : Option BusDraw} {s : State} (hrst : s.inReset = false) :
    applyInput (.seq d) s = seqStep d s := by
  simp [applyInput, seqInput, hrst]

/-- A run on one input is what that input does. -/
theorem drive_singleton (x : Input) (s : State) : drive [x] s = applyInput x s := by
  rw [drive_cons]
  cases applyInput x s <;> rfl

/-- QUIESCE counts QCNT down, logs the interval and goes to PostAccess (R127, R146). -/
theorem drive_quiesce {n : Nat} {s : State} (hrst : s.inReset = false) (hseq : s.seq = .quiesce) (hcnt : s.qcnt = n) :
    drive (List.replicate (n + 1) (.seq none)) s = postAccess { s.logQuiet with qcnt := 0 } := by
  induction n generalizing s with
  | zero =>
    have hself : { s.logQuiet with qcnt := 0 } = s.logQuiet := by rw [← hcnt]; rfl
    rw [List.replicate_one, drive_singleton, applyInput_seq hrst, hself]
    simp [seqStep, hseq, quiesceStep, hcnt]
  | succ n ih =>
    have hstep : applyInput (.seq none) s = .next { s with qcnt := n } := by
      rw [applyInput_seq hrst]
      simp [seqStep, hseq, quiesceStep, hcnt]
    rw [List.replicate_succ, drive_cons_next hstep]
    exact ih hrst hseq rfl

/-! ## A read access that succeeds -/

/-- A read access of the command byte `c` at address `a` has been started (R145), with the bus configured and free as R122
requires. -/
structure ReadStarted (a : BusAddr) (c : Byte) (s : State) : Prop where
  notInReset : s.inReset = false
  atWrite : s.seq = .wrTx
  reads : s.work.accKind = .read
  addr : s.latch.addr = a
  command : s.work.accCmdb = c
  configured : s.busConfigured = true
  free : s.busHeld = false

/-- The state after a command byte that was taken: the bus is held for the read (R129). -/
def afterCommandByte (a : BusAddr) (c : Byte) (s : State) : State :=
  { s with
    seq := .rdTx
    busHeld := true
    wire := s.wire ++ [.start, .byte (addrByte a false), .ack, .byte c, .ack] }

/-- The state after a byte that was read from a held bus: RXB has it, and the interval begins (R131). -/
def afterByteRead (a : BusAddr) (b : Byte) (s : State) : State :=
  { s with
    seq := .quiesce
    qcnt := s.params.qCycles
    busHeld := false
    work := { s.work with rxb := b, accOk := true }
    wire := s.wire ++ [.restart, .byte (addrByte a true), .ack, .byte b, .nack, .stop] }

/-- The state in which the interval after a successful read access is over and PostAccess begins. -/
def afterGoodRead (a : BusAddr) (c b : Byte) (s : State) : State :=
  { s with
    seq := .quiesce
    qcnt := 0
    busHeld := false
    work := { s.work with rxb := b, accOk := true }
    wire := s.wire ++ goodReadWire a c b }

/-- The held write, the read and the interval together have the traffic of R160. -/
theorem afterByteRead_quiet (a : BusAddr) (c b : Byte) (s : State) :
    { (afterByteRead a b (afterCommandByte a c s)).logQuiet with qcnt := 0 } = afterGoodRead a c b s := by
  simp [State.logQuiet, afterByteRead, afterCommandByte, afterGoodRead, goodReadWire]

/-- WR_TX of a read access whose command byte is taken (R146). -/
theorem seqStep_takesCommand {a : BusAddr} {c : Byte} {d : BusDraw} {s : State} (h : ReadStarted a c s)
    (htake : d.takesCommand a c) : seqStep (some d) s = .next (afterCommandByte a c s) := by
  simp [seqStep, h.atWrite, whenAnswered, wrTxStep, h.reads, heldWriteStep, h.configured, h.free, h.addr, h.command,
    busWrite_of_takesCommand htake, State.afterTx, afterCommandByte]

/-- RD_TX on a held bus in which the target sends its byte (R146). -/
theorem seqStep_sendsByte {a : BusAddr} {d : BusDraw} {s : State} (hseq : s.seq = .rdTx) (haddr : s.latch.addr = a)
    (hbus : s.busConfigured = true) (hheld : s.busHeld = true) (hsend : d.sendsByte a) :
    seqStep (some d) s = .next (afterByteRead a d.data s) := by
  simp [seqStep, hseq, whenAnswered, rdTxStep, hbus, hheld, haddr, busRead_of_sendsByte hsend, State.afterTx,
    State.recordByte, State.enterQuiesce, afterByteRead]

/-- R160's read access in the case of success: a held write, a read, one interval, and PostAccess. -/
theorem drive_goodRead {a : BusAddr} {c : Byte} {d₁ d₂ : BusDraw} {s : State} (h : ReadStarted a c s)
    (htake : d₁.takesCommand a c) (hsend : d₂.sendsByte a) :
    drive (answer d₁ :: answer d₂ :: quietScript s.params) s = postAccess (afterGoodRead a c d₂.data s) := by
  have hrst : (afterCommandByte a c s).inReset = false := h.notInReset
  have hwrite : applyInput (answer d₁) s = .next (afterCommandByte a c s) :=
    (applyInput_seq h.notInReset).trans (seqStep_takesCommand h htake)
  have hread : applyInput (answer d₂) (afterCommandByte a c s) =
      .next (afterByteRead a d₂.data (afterCommandByte a c s)) :=
    (applyInput_seq hrst).trans (seqStep_sendsByte rfl h.addr h.configured rfl hsend)
  have hquiet : drive (quietScript s.params) (afterByteRead a d₂.data (afterCommandByte a c s)) =
      postAccess { (afterByteRead a d₂.data (afterCommandByte a c s)).logQuiet with qcnt := 0 } :=
    drive_quiesce hrst rfl rfl
  rw [drive_cons_next hwrite, drive_cons_next hread, hquiet, afterByteRead_quiet]

/-! ## READ_TEMP -/

/-- The state in which READ_TEMP has been accepted and its configuration access started (R142, R145). -/
def readTempStarted (a : BusAddr) (s : State) : State := dispatchReadTemp (s.accept (encode (.readTemp a)))

/-- The state in which READ_TEMP enters CHECK, its configuration access having read the byte `b` (R148, R150). -/
def atCheck (a : BusAddr) (b : Byte) (s : State) : State :=
  { afterGoodRead a s.params.cmdConfig b (readTempStarted a s) with seq := .check }

/-- The state in which READ_TEMP's temperature access is started (R150). -/
def tempAccessStarted (a : BusAddr) (b : Byte) (s : State) : State :=
  ((atCheck a b s).setStage .temp).startRead s.params.cmdTemp

/-- Acceptance latches READ_TEMP's opcode, its address and OFFSET (R48, R142). -/
theorem readTempStarted_latch (a : BusAddr) (s : State) :
    (readTempStarted a s).latch =
      { op := opBits .readTemp, reg := false, en := false, addr := a, val := 0#8, off := s.offset } :=
  latchesOf_layWord ..

/-- The temperature access runs under the latches of acceptance (R48). -/
theorem tempAccessStarted_latch (a : BusAddr) (b : Byte) (s : State) :
    (tempAccessStarted a b s).latch = (readTempStarted a s).latch := rfl

theorem readStarted_config {a : BusAddr} {s : State} (h : ReadyFor (.readTemp a) s) :
    ReadStarted a s.params.cmdConfig (readTempStarted a s) where
  notInReset := h.notInReset
  atWrite := rfl
  reads := rfl
  addr := by rw [readTempStarted_latch]
  command := rfl
  configured := h.configured
  free := h.free

theorem readStarted_temp {a : BusAddr} {s : State} (b : Byte) (h : ReadyFor (.readTemp a) s) :
    ReadStarted a s.params.cmdTemp (tempAccessStarted a b s) where
  notInReset := h.notInReset
  atWrite := rfl
  reads := rfl
  addr := by rw [tempAccessStarted_latch, readTempStarted_latch]
  command := rfl
  configured := h.configured
  free := rfl

theorem postAccess_readTemp {s : State} (h : s.latch.op = opBits .readTemp) : postAccess s = .next (finishReadTemp s) := by
  simp [postAccess, h]

theorem finishReadTemp_temp {s : State} (hstage : s.work.stage = .temp) (hok : s.work.accOk = true) :
    finishReadTemp s = s.complete .ok (tempSum s.work.rxb s.latch.off) true := by
  simp [finishReadTemp, hstage, hok]

/-- PostAccess after a good configuration access enters CHECK (R148). -/
theorem postAccess_config (a : BusAddr) (b : Byte) (s : State) :
    postAccess (afterGoodRead a s.params.cmdConfig b (readTempStarted a s)) = .next (atCheck a b s) :=
  postAccess_readTemp (congrArg Latches.op (readTempStarted_latch a s))

/-- PostAccess after a good temperature access completes with the sum of the byte and the latched offset (R148, R173). -/
theorem postAccess_temp (a : BusAddr) (b t : Byte) (s : State) :
    postAccess (afterGoodRead a s.params.cmdTemp t (tempAccessStarted a b s)) =
      .next ((afterGoodRead a s.params.cmdTemp t (tempAccessStarted a b s)).complete .ok (tempSum t s.offset) true) := by
  have hlatch : (afterGoodRead a s.params.cmdTemp t (tempAccessStarted a b s)).latch = (readTempStarted a s).latch :=
    tempAccessStarted_latch a b s
  rw [readTempStarted_latch] at hlatch
  rw [postAccess_readTemp (congrArg Latches.op hlatch), finishReadTemp_temp rfl rfl, hlatch]
  rfl

/-- READ_TEMP up to the step of its CHECK, when the configuration access succeeds (R148, R150, R152). -/
theorem drive_readTemp_check {a : BusAddr} {d₁ d₂ : BusDraw} {s : State} (rest : List Input)
    (h : ReadyFor (.readTemp a) s) (htake : d₁.takesCommand a s.params.cmdConfig) (hsend : d₂.sendsByte a) :
    drive (.host (issueAccess (.readTemp a)) :: answer d₁ :: answer d₂ ::
        (quietScript s.params ++ .seq none :: rest)) s =
      drive rest (checkReady (atCheck a d₂.data s)) := by
  have hissue : applyInput (.host (issueAccess (.readTemp a))) s = .next (readTempStarted a s) :=
    issue_ready Instr.noConfusion h
  have haccess : drive (answer d₁ :: answer d₂ :: quietScript s.params) (readTempStarted a s) =
      .next (atCheck a d₂.data s) :=
    (drive_goodRead (readStarted_config h) htake hsend).trans (postAccess_config a d₂.data s)
  have hcheck : applyInput (.seq none) (atCheck a d₂.data s) = .next (checkReady (atCheck a d₂.data s)) :=
    applyInput_seq h.notInReset
  rw [drive_cons_next hissue, ← List.cons_append, ← List.cons_append, drive_append haccess, drive_cons_next hcheck]

/-- CHECK on a byte with bit 6 = 0 completes the command (R150). -/
theorem checkReady_of_notReady {a : BusAddr} {b : Byte} {s : State} (hbit : b.getLsbD 6 = false) :
    checkReady (atCheck a b s) = (atCheck a b s).complete .notReady tempSentinel false := by
  rcases checkReady_cases (atCheck a b s) with ⟨_, hcheck⟩ | ⟨hready, _⟩
  · exact hcheck
  · exact absurd (hbit.symm.trans hready) Bool.false_ne_true

/-- CHECK on a byte with bit 6 = 1 starts the temperature access (R150). -/
theorem checkReady_of_ready {a : BusAddr} {b : Byte} {s : State} (hbit : b.getLsbD 6 = true) :
    checkReady (atCheck a b s) = tempAccessStarted a b s := by
  rcases checkReady_cases (atCheck a b s) with ⟨hready, _⟩ | ⟨_, hcheck⟩
  · exact absurd (hready.symm.trans hbit) Bool.false_ne_true
  · exact hcheck

/-! ## A sensor that is not ready -/

/-- Settles O27: CHECK finds bit 6 = 0 and completes the command, with nothing on the wire after the first access. -/
theorem notReadyDominates : Obligations.NotReadyDominates := by
  intro s a d₁ d₂ h htake hsend hbit
  have hrun := drive_readTemp_check [] h htake hsend
  rw [drive_nil, checkReady_of_notReady hbit] at hrun
  exact ⟨_, hrun, rfl, rfl, rfl, rfl, rfl, rfl⟩

/-! ## The temperature sum -/

/-- READ_TEMP with both accesses good and bit 6 = 1 completes with the sum of the byte and OFFSET (R172, R173). -/
theorem drive_readTempScript {a : BusAddr} {d₁ d₂ d₃ d₄ : BusDraw} {s : State} (h : ReadyFor (.readTemp a) s)
    (htake₁ : d₁.takesCommand a s.params.cmdConfig) (hsend₂ : d₂.sendsByte a) (hbit : d₂.data.getLsbD 6 = true)
    (htake₃ : d₃.takesCommand a s.params.cmdTemp) (hsend₄ : d₄.sendsByte a) :
    drive (readTempScript s.params a d₁ d₂ [answer d₃, answer d₄]) s =
      .next ((afterGoodRead a s.params.cmdTemp d₄.data (tempAccessStarted a d₂.data s)).complete .ok
        (tempSum d₄.data s.offset) true) := by
  calc drive (readTempScript s.params a d₁ d₂ [answer d₃, answer d₄]) s
      = drive (answer d₃ :: answer d₄ :: quietScript s.params) (checkReady (atCheck a d₂.data s)) :=
        drive_readTemp_check _ h htake₁ hsend₂
    _ = drive (answer d₃ :: answer d₄ :: quietScript s.params) (tempAccessStarted a d₂.data s) := by
        rw [checkReady_of_ready hbit]
    _ = postAccess (afterGoodRead a s.params.cmdTemp d₄.data (tempAccessStarted a d₂.data s)) :=
        drive_goodRead (readStarted_temp d₂.data h) htake₃ hsend₄
    _ = _ := postAccess_temp a d₂.data d₄.data s

/-- The sum is exact when it is in the 32-bit range (R173). -/
theorem toInt_tempSum {t : Byte} {off : Word} (hlo : -2 ^ 31 ≤ t.toInt + off.toInt) (hhi : t.toInt + off.toInt < 2 ^ 31) :
    (tempSum t off).toInt = t.toInt + off.toInt :=
  BitVec.toInt_ofInt_eq_self (by decide) hlo hhi

/-- With offset 0 the sum is the reading itself. -/
theorem toInt_tempSum_zero (t : Byte) : (tempSum t 0#32).toInt = t.toInt := by
  have hlo : -2 ^ 7 ≤ t.toInt := BitVec.le_toInt t
  have hhi : t.toInt < 2 ^ 7 := BitVec.toInt_lt
  have hzero : (0#32).toInt = 0 := rfl
  rw [toInt_tempSum (by omega) (by omega), hzero, Int.add_zero]

/-- Settles O30: RESULT is the sum of R173 in both runs, and with offset 0 that is the reading. -/
theorem offsetIsLinear : Obligations.OffsetIsLinear := by
  intro s a d₁ d₂ d₃ d₄ h htake₁ hsend₂ hbit htake₃ hsend₄
  have hzero : ReadyFor (.readTemp a) { s with offset := 0#32 } :=
    ⟨h.notInReset, h.idle, h.initDone, h.configured, h.free, h.addr⟩
  refine ⟨_, _, drive_readTempScript h htake₁ hsend₂ hbit htake₃ hsend₄,
    drive_readTempScript hzero htake₁ hsend₂ hbit htake₃ hsend₄, ?_⟩
  simp only [complete_result, toInt_tempSum_zero]
  exact toInt_tempSum

end Sys2Proof.Proofs
end

section
/-! SUPPORT. The reset statement of 70_reset_and_hazards.md: what asserting reset leaves (R59, R241). -/

namespace Sys2Proof.Proofs

open Sys2Proof.Laws Sys2Proof.Machine

/-! ## Waiting in IDLE -/

/-- IDLE has no step of its own, whatever the environment answers (R146). -/
theorem seqStep_of_idle {s : State} (d : Option BusDraw) (hseq : s.seq = .idle) : seqStep d s = .next s := by
  simp only [seqStep, hseq]

/-- In IDLE with a free bus, neither line is driven (R51, R133). -/
theorem linesReleased_of_idle {s : State} (hseq : s.seq = .idle) (hfree : s.busHeld = false) :
    s.linesReleased = true := by
  simp [State.linesReleased, Seq.inTransaction, hseq, hfree]

/-! ## Asserting reset -/

/-- Asserting reset is the controller's reset at an asserted level (R240, R241). -/
theorem driveReset_true (s : State) : s.driveReset true = { s.resetController with inReset := true } := rfl

/-- STATUS reads 0 under reset: all of its fields are 0, and so are its views BUSY and STATE in IDLE (R36, R59). -/
theorem driveReset_true_statusWord (s : State) : (s.driveReset true).statusWord = 0#32 := by
  have hbusy : (s.driveReset true).busy = false := (busy_eq_false_iff _).2 rfl
  rw [State.statusWord, hbusy, driveReset_true, resetController_seq, resetController_subop, resetController_code,
    resetController_rejected, resetController_initDone, resetController_done]
  rfl

/-- Settles O54: the step is the reset of R241, each register is read off the reset controller, and its IDLE waits. -/
theorem resetRestoresEveryRegister : Obligations.ResetRestoresEveryRegister := by
  intro s rest hin
  have hstep : step s = .next (({ s with inputs := rest } : State).driveReset true) := step_of_inputs_cons hin
  refine ⟨_, hstep, ?_⟩
  generalize ({ s with inputs := rest } : State) = s₀
  have hseq : (s₀.driveReset true).seq = .idle := resetController_seq s₀
  have hfree : (s₀.driveReset true).busHeld = false := resetController_busHeld s₀
  exact ⟨resetController_cmd s₀, resetController_offset s₀, resetController_result s₀, driveReset_true_statusWord s₀,
    resetController_latch s₀, resetController_work s₀, hseq, resetController_busClk s₀, resetController_busPullup s₀,
    hfree, resetController_qcnt s₀, linesReleased_of_idle hseq hfree, fun d => seqStep_of_idle d hseq⟩

end Sys2Proof.Proofs
end

section
/-! SUPPORT. Round trips of the encoder and the decoder, which words hit a row, the words of the assembler, and the
statements of 30_encoding.md about them. -/

namespace Sys2Proof.Proofs

open Sys2Proof.Laws Sys2Proof.Machine

/-! ## Round trips -/

/-- The decoder reads every operand where the encoder has put it. -/
theorem readFields_encode (i : Instr) : readFields i.opcode (encode i) = i := by
  cases i <;> simp [encode, readFields, Instr.opcode]

theorem decode_encode (i : Instr) : decode (encode i) = .ok i := by
  obtain ⟨hrow, _, _⟩ := encodedFields i
  rw [decode_of_hitsRow hrow, readFields_encode]

/-- Settles O1: the command's word hits the row of its opcode, and the row's fields are the operands. -/
theorem decodeOfEncode : Obligations.DecodeOfEncode := decode_encode

/-- Settles O2: a legal word is the pattern of its fields, with 0 in every unused one. -/
theorem encodeOfDecode : Obligations.EncodeOfDecode := fun _ _ => encode_of_decode

/-! ## Rows -/

theorem opBits_injective : Function.Injective opBits := by
  intro p q h
  have hopt : some p = some q := by rw [← opOfBits_opBits p, ← opOfBits_opBits q, h]
  exact Option.some.inj hopt

/-- Settles O4: two rows hit by one word have the opcode of that word's OP field. -/
theorem tableRowsDisjoint : Obligations.TableRowsDisjoint := by
  intro w p q hp hq
  exact opBits_injective ((fieldOp_of_hitsRow hp).symm.trans (fieldOp_of_hitsRow hq))

/-- The reserved bits are 7:6, 15 and 31:24 (R101). -/
theorem reserved_zero_iff (w : Word) :
    w &&& reservedMask = 0#32 ↔ w.extractLsb' 6 2 = 0#2 ∧ w.getLsbD 15 = false ∧ w.extractLsb' 24 8 = 0#8 := by
  constructor
  · intro h
    have hbit (i : Nat) : (w.getLsbD i && reservedMask.getLsbD i) = false := by
      rw [← BitVec.getLsbD_and, h, BitVec.getLsbD_zero]
    refine ⟨?_, by simpa [reservedMask] using hbit 15, ?_⟩
    · apply BitVec.eq_of_getLsbD_eq
      intro i hi
      have hb := hbit (6 + i)
      rw [BitVec.getLsbD_extractLsb']
      interval_cases i <;> simp_all [reservedMask]
    · apply BitVec.eq_of_getLsbD_eq
      intro i hi
      have hb := hbit (24 + i)
      rw [BitVec.getLsbD_extractLsb']
      interval_cases i <;> simp_all [reservedMask]
  · rintro ⟨hlow, hmid, hhigh⟩
    have hlow' (i : Nat) (hi : i < 2) : w.getLsbD (6 + i) = false := by
      simpa [hi] using congrArg (·.getLsbD i) hlow
    have hhigh' (i : Nat) (hi : i < 8) : w.getLsbD (24 + i) = false := by
      simpa [hi] using congrArg (·.getLsbD i) hhigh
    apply BitVec.eq_of_getLsbD_eq
    intro i hi
    rw [BitVec.getLsbD_and, BitVec.getLsbD_zero]
    by_cases h₁ : 6 ≤ i ∧ i < 8
    · obtain ⟨k, rfl⟩ := Nat.exists_eq_add_of_le h₁.1
      rw [hlow' k (by omega), Bool.false_and]
    · by_cases h₂ : 24 ≤ i
      · obtain ⟨k, rfl⟩ := Nat.exists_eq_add_of_le h₂
        rw [hhigh' k (by omega), Bool.false_and]
      · interval_cases i <;> simp_all [reservedMask]

/-- A row of R103 in terms of the fields of R101: the reserved bits are 0, OP is the row's opcode, and the fields the
opcode does not use are 0. -/
theorem hitsRow_iff_fields (w : Word) (op : Opcode) :
    hitsRow w op = true ↔
      w &&& reservedMask = 0#32 ∧ fieldOp w = opBits op ∧
        (op ≠ .writeReg → fieldValue w = 0#8) ∧
        (op = .init → fieldAddr w = 0#7) ∧
        (op ≠ .setStandby → fieldEn w = false) ∧
        (op ≠ .readReg ∧ op ≠ .writeReg → fieldReg w = false) := by
  constructor
  · intro h
    exact ⟨reserved_zero_of_hitsRow h, fieldOp_of_hitsRow h, unused_fields_of_hitsRow h⟩
  · rintro ⟨hreserved, hop, hvalue, haddr, hen, hreg⟩
    have hword : encode (readFields op w) = w := by
      rw [← layWord_fields hreserved, hop]
      cases op <;> simp [encode, readFields, hvalue, haddr, hen, hreg]
    obtain ⟨hrow, _, _⟩ := encodedFields (readFields op w)
    rwa [hword, readFields_opcode] at hrow

/-- OP is reserved or names an opcode (R102, R107). -/
theorem reserved_or_opBits (o : BitVec 4) : (o = 0x0#4 ∨ 8 ≤ o.toNat) ∨ ∃ op, o = opBits op := by
  have hcases : (o = 0x0#4 ∨ 8 ≤ o.toNat) ∨ ∃ op ∈ allOpcodes, o = opBits op := by revert o; decide
  exact hcases.imp_right fun ⟨op, _, hop⟩ => ⟨op, hop⟩

theorem opBits_not_reserved (op : Opcode) : ¬ (opBits op = 0x0#4 ∨ 8 ≤ (opBits op).toNat) := by cases op <;> decide

/-- Settles O5: a word hits the row of its OP field unless that field is reserved, a reserved bit is 1, or a field the row
does not use is not 0. -/
theorem illegalWordsNamedByBits : Obligations.IllegalWordsNamedByBits := by
  intro w
  have hlegal : legal w = false ↔ ¬ ∃ p, hitsRow w p = true := by
    rw [← legal_iff_exists_hitsRow, Bool.not_eq_true]
  rw [hlegal]
  rcases reserved_or_opBits (fieldOp w) with hres | ⟨op, hop⟩
  · refine iff_of_true ?_ (.inl hres)
    rintro ⟨p, hp⟩
    rw [fieldOp_of_hitsRow hp] at hres
    exact opBits_not_reserved p hres
  · have hrow : (∃ p, hitsRow w p = true) ↔ hitsRow w op = true :=
      ⟨fun ⟨p, hp⟩ => opBits_injective ((fieldOp_of_hitsRow hp).symm.trans hop) ▸ hp, fun h => ⟨op, h⟩⟩
    rw [hrow, hitsRow_iff_fields, reserved_zero_iff, hop]
    cases op <;> simp [opBits] <;> grind

/-! ## Words of the assembler -/

theorem toNat_bit1 (b : Bool) : (bit1 b).toNat = b.toNat := by cases b <;> rfl

/-- The number of a laid-out word: each field shifted to its place (R101). -/
theorem toNat_layWord (v : Byte) (a : BusAddr) (e g : Bool) (o : BitVec 4) :
    (layWord v a e g o).toNat =
      v.toNat <<< 16 ||| a.toNat <<< 8 ||| e.toNat <<< 5 ||| g.toNat <<< 4 ||| o.toNat := by
  show ((0#8 ++ v ++ 0#1 ++ a ++ 0#2 ++ bit1 e ++ bit1 g ++ o : BitVec (8 + 8 + 1 + 7 + 2 + 1 + 1 + 4))).toNat = _
  simp only [BitVec.toNat_append, toNat_bit1]
  simp [Nat.shiftLeft_or_distrib, ← Nat.shiftLeft_add]

/-- The word of operands given as numbers in range, as R109 writes it. -/
theorem layWord_ofNat {v a e g : Nat} (hv : v < 2 ^ 8) (ha : a < 2 ^ 7) (he : e ≤ 1) (hg : g ≤ 1) (o : BitVec 4) :
    layWord (BitVec.ofNat 8 v) (BitVec.ofNat 7 a) (e == 1) (g == 1) o =
      BitVec.ofNat 32 (v <<< 16 ||| a <<< 8 ||| e <<< 5 ||| g <<< 4 ||| o.toNat) := by
  have hbit {n : Nat} (hn : n ≤ 1) : (n == 1).toNat = n := by interval_cases n <;> rfl
  apply BitVec.eq_of_toNat_eq
  have hlt := (layWord (BitVec.ofNat 8 v) (BitVec.ofNat 7 a) (e == 1) (g == 1) o).isLt
  rw [toNat_layWord, BitVec.toNat_ofNat, BitVec.toNat_ofNat, Nat.mod_eq_of_lt hv, Nat.mod_eq_of_lt ha, hbit he,
    hbit hg] at hlt ⊢
  rw [BitVec.toNat_ofNat, Nat.mod_eq_of_lt hlt]

theorem regBit_regOfNat (r : Nat) : regBit (regOfNat r) = (r == 1) := by
  unfold regOfNat
  split <;> simp_all [regBit]

/-! ## Statements of the assembler -/

/-- A statement whose range check is the proposition `c`. -/
theorem assemble_of_range {p : Params} {st : Stmt} {c : Prop} [Decidable c] {l : List HostOp}
    (hc : st.wellFormed = true ↔ c) (hl : c → expand p st = l) :
    assemble p st = if c then some l else none := by
  unfold assemble
  by_cases h : c
  · rw [if_pos h, if_pos (hc.2 h), hl h]
  · rw [if_neg h, if_neg fun hw => h (hc.1 hw)]

/-- A command statement is the word its operands make (R109). -/
theorem expand_of_layWord {p : Params} {st : Stmt} {i : Instr} {v a e g n : Nat} {o : BitVec 4}
    (hst : expand p st = [issueOp i])
    (hi : encode i = layWord (BitVec.ofNat 8 v) (BitVec.ofNat 7 a) (e == 1) (g == 1) o)
    (hv : v ≤ 0xFF) (ha : a ≤ 0x7F) (he : e ≤ 1) (hg : g ≤ 1)
    (hn : v <<< 16 ||| a <<< 8 ||| e <<< 5 ||| g <<< 4 ||| o.toNat = n) :
    expand p st = [.wr offCmd (BitVec.ofNat 32 n)] := by
  rw [hst, issueOp, hi, layWord_ofNat (by omega) (by omega) he hg, hn]

/-- The command statements with an address alone (R109). -/
theorem assemble_addrStmt {p : Params} {a : Nat} {st : Stmt} {i : Instr} {o : BitVec 4}
    (hwf : st.wellFormed = addrInRange a) (hst : expand p st = [issueOp i])
    (hi : encode i = layWord 0#8 (BitVec.ofNat 7 a) false false o) :
    assemble p st = if a ≤ 0x7F then some [.wr offCmd (BitVec.ofNat 32 (a <<< 8 ||| o.toNat))] else none :=
  assemble_of_range (by simp [hwf, addrInRange]) fun ha =>
    expand_of_layWord (v := 0) (e := 0) (g := 0) hst hi (by decide) ha (by decide) (by decide) (by simp)

theorem assemble_standby (p : Params) (a : Nat) : assemble p (.standby a) = assemble p (.setStandby a 1) :=
  assemble_of_range (by simp [Stmt.wellFormed, bitInRange]) fun _ => rfl

theorem assemble_wake (p : Params) (a : Nat) : assemble p (.wake a) = assemble p (.setStandby a 0) :=
  assemble_of_range (by simp [Stmt.wellFormed, bitInRange]) fun _ => rfl

/-- `RUN` is refused exactly when its statement is, and adds WAIT and a read of RESULT (R110). -/
theorem assemble_run (p : Params) (st : Stmt) :
    assemble p (.run st) = (assemble p st).map (fun l => l ++ [.waitDone, .rd offResult]) := by
  cases h : st.wellFormed <;> simp [assemble, expand, runTail, Stmt.wellFormed, h]

theorem assemble_readTempOffset (p : Params) (a : Nat) (o : Int) :
    assemble p (.readTempOffset a o) =
      (assemble p (.readTemp a)).map (fun l => .wr offOffset (BitVec.ofInt 32 o) :: l) := by
  cases h : addrInRange a <;> simp [assemble, expand, Stmt.wellFormed, wrap32, h]

/-- Settles O7: each statement is its range check and its expansion, and a command's word is R109's. -/
theorem assemblerWords : Obligations.AssemblerWords := by
  intro p a e r v w off o st
  refine ⟨rfl, assemble_addrStmt (o := opBits .probe) rfl rfl rfl, assemble_addrStmt (o := opBits .readConfig) rfl rfl rfl,
    assemble_addrStmt (o := opBits .readTemp) rfl rfl rfl, ?_, ?_, ?_, ?_, ?_, ?_, rfl, rfl, rfl, rfl, assemble_standby p a, assemble_wake p a, assemble_run p st,
    assemble_readTempOffset p a o, rfl, rfl, rfl, rfl⟩
  · exact assemble_of_range (by simp [Stmt.wellFormed, addrInRange, bitInRange]) fun ⟨ha, he⟩ =>
      expand_of_layWord (v := 0) (g := 0) rfl rfl (by decide) ha he (by decide)
        (by simp [opBits, Nat.or_comm (a <<< 8)])
  · exact assemble_of_range (by simp [Stmt.wellFormed, addrInRange, bitInRange]) fun ⟨ha, hr⟩ =>
      expand_of_layWord (v := 0) (e := 0) rfl (by rw [encode, regBit_regOfNat]; rfl) (by decide) ha (by decide) hr
        (by simp [opBits, Nat.or_comm (a <<< 8)])
  · exact assemble_of_range (by simp [Stmt.wellFormed, addrInRange, bitInRange, byteInRange, and_assoc])
      fun ⟨ha, hr, hv⟩ =>
        expand_of_layWord (e := 0) rfl (by rw [encode, regBit_regOfNat]; rfl) hv ha (by decide) hr
          (by simp [opBits, Nat.or_assoc, Nat.or_comm (a <<< 8)])
  · exact assemble_of_range (by simp [Stmt.wellFormed, wordInRange]) fun _ => rfl
  · exact assemble_of_range (by simp [Stmt.wellFormed, wordInRange, offInRange]) fun _ => rfl
  · exact assemble_of_range (by simp [Stmt.wellFormed, offInRange]) fun _ => rfl

/-! ## Pseudo-instructions -/

theorem mem_legalInOrder (p : Params) (x : BusAddr) : x ∈ legalInOrder p ↔ x ∈ p.legalAddrs := by
  have hrange : x ∈ (List.range 128).map (BitVec.ofNat 7) :=
    List.mem_map.2 ⟨x.toNat, List.mem_range.2 x.isLt, by simp⟩
  simp [legalInOrder, hrange, admissible]

theorem legalInOrder_increasing (p : Params) : (legalInOrder p).Pairwise (fun x y => x.toNat < y.toNat) := by
  refine List.Pairwise.filter _ (List.pairwise_map.2 ?_)
  refine List.Pairwise.imp_of_mem ?_ (List.pairwise_lt_range (n := 128))
  intro m n hm hn hlt
  rw [List.mem_range] at hm hn
  rwa [BitVec.toNat_ofNat, BitVec.toNat_ofNat, Nat.mod_eq_of_lt hm, Nat.mod_eq_of_lt hn]

/-- Settles O8: SCAN's list is the addresses from 0 to 127 that are admissible. -/
theorem pseudoInstructionsExpand : Obligations.PseudoInstructionsExpand := by
  intro p a o st
  refine ⟨rfl, rfl, rfl, ?_, rfl, rfl, legalInOrder p, legalInOrder_increasing p, mem_legalInOrder p, ?_⟩
  · simp [expand, runTail]
  · simp [expand, runTail]

end Sys2Proof.Proofs
end

section
/-! SUPPORT. The accepting step of each command (R140 to R145), and the statements of 41_sequencer.md and 44_init.md about
acceptance, its checks and its dispatch. -/

namespace Sys2Proof.Proofs

open Sys2Proof.Laws Sys2Proof.Machine

/-! ## A command's word on the host port -/

/-- A write of the command's word to CMD is the command's meaning (R140). -/
theorem cmdWrite_of_decode {w : Word} {i : Instr} (s : State) (h : decode w = .ok i) : cmdWrite w s = exec i s := by
  simp only [cmdWrite, h]

/-- Settles O9: the host port takes an aligned word at offset 0 to CMD, whose write is the decoded command's meaning. -/
theorem stepRunsDecodedCommand : Obligations.StepRunsDecodedCommand := by
  intro s w i rest hdec
  have hwrite (s : State) (hrst : s.inReset = false) : hostStep (.write .word 0x00#5 w) s = exec i s :=
    (hostStep_write_of_wholeWord w hrst rfl).trans (cmdWrite_of_decode s hdec)
  constructor
  · intro hrst hin
    exact (step_of_inputs_cons hin).trans (hwrite _ hrst)
  · have hword : BitVec.ofNat 32 (w.toNat % 2 ^ 32) = w := by
      rw [Nat.mod_eq_of_lt w.isLt, BitVec.ofNat_toNat, BitVec.setWidth_eq]
    calc step (s.withFetchWord 32 w.toNat)
        = hostStep (cmdAccess 32 w.toNat) { s with inReset := false } :=
          step_of_inputs_cons (s := s.withFetchWord 32 w.toNat) rfl
      _ = exec i { s with inReset := false } := by rw [cmdAccess, hword, hwrite _ rfl]

/-! ## The checks of R143 -/

/-- An idle controller accepts a word that hits a row and runs the row's checks and dispatch. -/
theorem cmdWrite_idle_of_hitsRow {w : Word} {op : Opcode} {s : State} (hidle : s.seq = .idle)
    (hrow : hitsRow w op = true) : cmdWrite w s = .next (bodyOf op (s.accept w)) := by
  rw [cmdWrite_idle_of_decode_ok hidle (decode_of_hitsRow hrow), readFields_opcode]

/-- A word that is not legal is no command for the decoder (R105). -/
theorem decode_error_of_not_legal {w : Word} (h : legal w = false) : ∃ e, decode w = .error e := by
  cases hdec : decode w with
  | error e => exact ⟨e, rfl⟩
  | ok i =>
    have hlegal : legal w = true := (legalExactlyOnTableRows w).2.2 ⟨i, hdec⟩
    rw [h] at hlegal
    cases hlegal

theorem admissible_iff (p : Params) (a : BusAddr) : admissible p a = true ↔ a ∈ p.legalAddrs := by
  simp [admissible]

theorem admissible_eq_false_iff (p : Params) (a : BusAddr) : admissible p a = false ↔ a ∉ p.legalAddrs := by
  rw [← admissible_iff, Bool.not_eq_true]

/-- The first check of R143 for a command other than INIT. -/
theorem bodyOf_notInit {op : Opcode} {s : State} (hop : op ≠ .init) (hinit : s.initDone = false) :
    bodyOf op s = s.complete .notInit (failVal op) false := by
  rw [bodyOf_eq op hop, checkedDispatch_notInit _ _ _ hinit]

/-- The second check. -/
theorem bodyOf_illegalAddr {op : Opcode} {s : State} (hop : op ≠ .init) (hinit : s.initDone = true)
    (haddr : s.latch.addr ∉ s.params.legalAddrs) : bodyOf op s = s.complete .illegalAddr (failVal op) false := by
  rw [bodyOf_eq op hop, checkedDispatch_illegalAddr _ _ _ hinit ((admissible_eq_false_iff _ _).2 haddr)]

/-- A command that passes both is dispatched. -/
theorem bodyOf_dispatch {op : Opcode} {s : State} (hop : op ≠ .init) (hinit : s.initDone = true)
    (haddr : s.latch.addr ∈ s.params.legalAddrs) : bodyOf op s = dispatchOf op s := by
  rw [bodyOf_eq op hop, checkedDispatch_legal _ _ _ hinit ((admissible_iff _ _).2 haddr)]

/-- The first INIT is dispatched (R190). -/
theorem bodyOf_firstInit {s : State} (hinit : s.initDone = false) : bodyOf .init s = { s with seq := .cfg } := by
  show dispatchInit s = _
  simp [dispatchInit, hinit]

/-- A second INIT completes (R190). -/
theorem bodyOf_secondInit {s : State} (hinit : s.initDone = true) :
    bodyOf .init s = s.complete .alreadyInit 0#32 false := by
  show dispatchInit s = _
  simp [dispatchInit, hinit]

/-- A dispatched command has a sequence to run, and its word in CMD (R145). -/
theorem dispatchOf_runs {op : Opcode} {s : State} (hop : op ≠ .init) :
    (dispatchOf op s).busy = true ∧ (dispatchOf op s).cmd = s.cmd := by
  cases op with
  | init => exact absurd rfl hop
  | _ => exact ⟨rfl, rfl⟩

/-- Settles O12: the decoder's answer decides the first check, and the row's body the others. -/
theorem acceptanceChecksInOrder : Obligations.AcceptanceChecksInOrder := by
  intro s w hidle
  refine ⟨fun hillegal => ?_, fun op hrow hop hinit => ?_, fun hrow hinit => ?_, fun op hrow hop hinit haddr => ?_,
    fun op hrow hfirst hlater => ?_⟩
  · obtain ⟨e, hdec⟩ := decode_error_of_not_legal hillegal
    exact cmdWrite_idle_of_decode_error hidle hdec
  · rw [cmdWrite_idle_of_hitsRow hidle hrow, bodyOf_notInit (s := s.accept w) hop hinit]
  · rw [cmdWrite_idle_of_hitsRow hidle hrow, bodyOf_secondInit (s := s.accept w) hinit]
  · rw [cmdWrite_idle_of_hitsRow hidle hrow, bodyOf_illegalAddr (s := s.accept w) hop hinit haddr]
  · refine ⟨_, cmdWrite_idle_of_hitsRow hidle hrow, ?_⟩
    by_cases hop : op = .init
    · subst hop
      rw [bodyOf_firstInit (s := s.accept w) (hfirst rfl)]
      exact ⟨rfl, rfl⟩
    · obtain ⟨hinit, haddr⟩ := hlater hop
      rw [bodyOf_dispatch (s := s.accept w) hop hinit haddr]
      exact dispatchOf_runs hop

/-- Settles O13: before INIT every other command fails the first check, with the failure value of its opcode. -/
theorem failureValues : Obligations.FailureValues := by
  intro s i hidle hinit hi
  have hop : i.opcode ≠ .init := fun hop => hi (opcode_eq_init hop)
  refine ⟨_, exec_idle i s hidle, ?_⟩
  rw [bodyOf_notInit (s := s.accept (encode i)) hop hinit]
  refine ⟨rfl, rfl, rfl, rfl, ?_⟩
  cases i <;> rfl

/-- Settles O14: an accepted command latches its ADDR, which fails the second check. -/
theorem inadmissibleAddressCompletes : Obligations.InadmissibleAddressCompletes := by
  intro s i hidle hinit hi haddr
  obtain ⟨_, _, hfield⟩ := encodedFields i
  have hop : i.opcode ≠ .init := fun hop => hi (opcode_eq_init hop)
  have hlatched : (s.accept (encode i)).latch.addr ∉ s.params.legalAddrs := by
    rwa [accept_latch, latchesOf, hfield]
  rw [exec_idle i s hidle, bodyOf_illegalAddr (s := s.accept (encode i)) hop hinit hlatched]
  simp [State.accept, State.complete, hidle]

/-! ## Dispatch -/

/-- Settles O15. -/
theorem initStartsConfiguration : Obligations.InitStartsConfiguration := by
  intro s hidle hinit
  rw [exec_idle .init s hidle]
  exact congrArg _ (bodyOf_firstInit (s := s.accept (encode .init)) hinit)

/-- Settles O16. -/
theorem secondInitChangesNothingElse : Obligations.SecondInitChangesNothingElse := by
  intro s hidle hinit
  rw [exec_idle .init s hidle]
  exact congrArg _ (bodyOf_secondInit (s := s.accept (encode .init)) hinit)

/-- A command that is ready passes the checks and is dispatched. -/
theorem exec_ready {i : Instr} {s : State} (hinit : i ≠ .init) (h : ReadyFor i s) :
    exec i s = .next (dispatchOf i.opcode (s.accept (encode i))) := by
  rw [← cmdWrite_of_decode s (decode_encode i), ← hostStep_issueAccess h.notInReset]
  exact issue_ready hinit h

/-- Settles O17: the dispatch of PROBE from the latches of its word. -/
theorem probeDispatch : Obligations.ProbeDispatch := by
  intro s a h
  rw [exec_ready Instr.noConfusion h]
  simp [dispatchOf, Instr.opcode, dispatchProbe, State.accept, encode, opBits]

theorem standbyByte_eq (e : Bool) : standbyByte e = if e then 0x80#8 else 0x00#8 := by cases e <;> rfl

/-- Settles O18: each dispatch starts a read access of the register that the latches of its word name. -/
theorem readCommandsDispatch : Obligations.ReadCommandsDispatch := by
  intro s a r
  refine ⟨fun h => ?_, fun h => ?_, fun h => ?_⟩
  · rw [exec_ready Instr.noConfusion h]
    simp [dispatchOf, Instr.opcode, dispatchReadConfig, State.startRead, State.accept, encode, opBits, cmdByte]
  · rw [exec_ready Instr.noConfusion h]
    simp [dispatchOf, Instr.opcode, dispatchReadTemp, State.setStage, State.startRead, State.accept, encode, opBits,
      cmdByte]
  · rw [exec_ready Instr.noConfusion h]
    cases r <;>
      simp [dispatchOf, Instr.opcode, dispatchReadReg, State.startRead, State.accept, encode, opBits, cmdByte, regBit,
        regOfBit]

/-- Settles O19: each dispatch starts a write access, of the byte EN gives or of VALUE. -/
theorem writeCommandsDispatch : Obligations.WriteCommandsDispatch := by
  intro s a e r v
  refine ⟨fun h => ?_, fun h => ?_⟩
  · rw [exec_ready Instr.noConfusion h]
    simp [dispatchOf, Instr.opcode, dispatchSetStandby, State.startWrite, State.accept, encode, opBits, cmdByte,
      standbyByte_eq]
  · rw [exec_ready Instr.noConfusion h]
    cases r <;>
      simp [dispatchOf, Instr.opcode, dispatchWriteReg, State.startWrite, State.accept, encode, opBits, cmdByte, regBit,
        regOfBit]

/-- Settles O20: the accepting step is O15's, and the CFG step completes the command with the bus configured. -/
theorem initConfiguresBus : Obligations.InitConfiguresBus := by
  intro s hrst hidle hinit
  have hissue : applyInput (.host (issueAccess .init)) s = exec .init s :=
    (hostStep_issueAccess hrst).trans (cmdWrite_of_decode s (decode_encode .init))
  rw [initStartsConfiguration s hidle hinit] at hissue
  rw [drive_cons_next hissue, drive_singleton]
  simp [applyInput, seqInput, hrst, seqStep, finishInit, State.configureBus, State.complete, hidle]

end Sys2Proof.Proofs
end

section
/-! SUPPORT. What the host reads: the number of STATUS, the read rule of R78, and a controller held in reset. -/

namespace Sys2Proof.Proofs

open Sys2Proof.Laws Sys2Proof.Machine

/-! ## STATUS -/

/-- Concatenation as a sum: the upper part counts in units of the lower part's size. -/
theorem toNat_append_eq {m n : Nat} (x : BitVec m) (y : BitVec n) : (x ++ y).toNat = x.toNat * 2 ^ n + y.toNat := by
  rw [BitVec.toNat_append, ← Nat.shiftLeft_add_eq_or_of_lt y.isLt, Nat.shiftLeft_eq]

/-- Settles O45: each field of STATUS counts in units of its lowest bit. -/
theorem statusLayout : Obligations.StatusLayout := by
  intro s
  have hbusy : s.busy.toNat = if s.seq = .idle then 0 else 1 := by
    by_cases h : s.seq = .idle <;> simp [State.busy, h]
  have hsum : s.statusWord.toNat =
      s.busy.toNat + 2 * s.done.toNat + 4 * s.initDone.toNat + 8 * s.rejected.toNat + 16 * (codeBits s.code).toNat +
        256 * s.subop.toNat + 4096 * (seqBits s.seq).toNat := by
    show ((0#16 ++ seqBits s.seq ++ 0#3 ++ bit1 s.subop ++ codeBits s.code ++ bit1 s.rejected ++ bit1 s.initDone ++
      bit1 s.done ++ bit1 s.busy : BitVec (16 + 4 + 3 + 1 + 4 + 1 + 1 + 1 + 1))).toNat = _
    simp only [toNat_append_eq, toNat_bit1, BitVec.toNat_ofNat, Nat.zero_mod]
    omega
  rw [hsum, hbusy]
  congr 1
  · congr 2
    cases s.code <;> rfl
  · cases s.seq <;> rfl

/-! ## Reads -/

/-- HostRead (R78) at an aligned offset, by the number of the offset. -/
theorem hostRead_of_aligned {off : HostOff} (s : State) (hal : off.toNat % 4 = 0) :
    s.hostRead off =
      if off.toNat = 0x00 then s.cmd
      else if off.toNat = 0x04 then s.statusWord
      else if off.toNat = 0x08 then s.offset
      else if off.toNat = 0x0C then s.result
      else 0#32 := by
  rw [State.hostRead, hostReg_of_aligned hal]
  split_ifs <;> rfl

/-- Settles O46: the step is HostRead, which the offset's number decides. -/
theorem hostReadsRegisters : Obligations.HostReadsRegisters := by
  intro s off rest hrst hin hal
  have hw : wholeWord .word off = true := (wholeWord_iff _ _).2 ⟨rfl, hal⟩
  have hread : hostStep (.read .word off) { s with inputs := rest } =
      .next { s with inputs := rest, hostRdata := s.hostRead off } := by
    simp only [hostStep, hrst, hw, Bool.false_eq_true, if_false, if_true]
    rfl
  rw [step_of_inputs_cons hin, ← hostRead_of_aligned s hal]
  exact hread

/-! ## Held in reset -/

/-- Settles O55: with reset asserted a sequencer input is no step of the controller, and the port refuses an access. -/
theorem assertedResetHoldsController : Obligations.AssertedResetHoldsController := by
  intro s rest hrst
  refine ⟨fun d hin => ?_, fun a hin => ?_, fun hin => ?_⟩
  · rw [step_of_inputs_cons hin]
    simp [applyInput, seqInput, hrst]
  · rw [step_of_inputs_cons hin]
    simp [applyInput, hostStep, hrst]
  · simp [step, takeInput, hin, seqInput, hrst]

end Sys2Proof.Proofs
end

section
/-! SUPPORT. The bus engine under every draw, and the statements of 40_bus_transport.md about a transaction's outcome and
traffic; the range of the temperature sum (43_sensor_ops.md). -/

namespace Sys2Proof.Proofs

open Sys2Proof.Laws Sys2Proof.Machine

/-! ## Writes -/

/-- BusWrite succeeds exactly when all its bytes are taken (R122). -/
theorem busWrite_of_taken {a : BusAddr} {bytes : List Byte} {d : BusDraw} (stop : Bool)
    (h : (sendBytes d 0 (addrByte a false :: bytes)).2 = true) :
    busWrite a bytes stop d =
      { outcome := .count bytes.length
        held := !stop
        wire := .start :: (takenBytes (addrByte a false :: bytes) ++ stopWhen stop) } := by
  simp only [busWrite, h, if_true, sendBytes_wire_of_taken h]

/-- A write with a byte that is not taken fails and releases the bus (R123, R126). -/
theorem busWrite_of_not_taken {a : BusAddr} {bytes : List Byte} {d : BusDraw} (stop : Bool)
    (h : (sendBytes d 0 (addrByte a false :: bytes)).2 = false) :
    busWrite a bytes stop d =
      { outcome := .fail, held := false, wire := .start :: (sendBytes d 0 (addrByte a false :: bytes)).1 } := by
  simp [busWrite, h]

/-- Which draws let all bytes of a write through: none of them is refused, and no position up to the one after the last
byte is broken. The bytes are those of the data and the address byte before them. -/
theorem write_taken_iff (a : BusAddr) (bytes : List Byte) (d : BusDraw) :
    (sendBytes d 0 (addrByte a false :: bytes)).2 = true ↔
      (∀ k, d.brokenAt = some k → bytes.length + 1 < k) ∧ (∀ k, d.nackAt = some k → bytes.length < k) := by
  simp only [sendBytes_taken, List.length_cons, Nat.not_lt_zero, false_or, Nat.zero_add, Nat.succ_le_iff]

/-- The first byte driven is the first of the list, whatever then happens to it. -/
theorem sendBytes_head (d : BusDraw) (k : Nat) (b : Byte) (l : List Byte) :
    ∃ w, (sendBytes d k (b :: l)).1 = .byte b :: w := by
  unfold sendBytes
  split
  · exact ⟨_, rfl⟩
  · split <;> exact ⟨_, rfl⟩

/-- A write opens with START and the address byte (R13, R122). -/
theorem busWrite_opening (a : BusAddr) (bytes : List Byte) (stop : Bool) (d : BusDraw) :
    (busWrite a bytes stop d).wire.take 2 = [.start, .byte (addrByte a false)] := by
  obtain ⟨w, hw⟩ := sendBytes_head d 0 (addrByte a false) bytes
  cases h : (sendBytes d 0 (addrByte a false :: bytes)).2 with
  | true => rw [busWrite_of_taken stop h]; rfl
  | false => rw [busWrite_of_not_taken stop h, hw]; rfl

/-- A write some byte of which is not taken ends with `Fail` and the bus released. -/
theorem busWrite_fails {a : BusAddr} {bytes : List Byte} {d : BusDraw} (stop : Bool)
    (h : ¬ ((∀ k, d.brokenAt = some k → bytes.length + 1 < k) ∧ (∀ k, d.nackAt = some k → bytes.length < k))) :
    (busWrite a bytes stop d).outcome = .fail ∧ (busWrite a bytes stop d).held = false := by
  rw [← write_taken_iff a, Bool.not_eq_true] at h
  rw [busWrite_of_not_taken stop h]
  exact ⟨rfl, rfl⟩

/-- Settles O36: success is that all bytes are taken, and a refused byte or a broken position is one that is not. -/
theorem writeSucceedsWhenAcknowledged : Obligations.WriteSucceedsWhenAcknowledged := by
  intro a bytes stop d
  refine ⟨fun hbroken => ⟨busWrite_opening a bytes stop d, fun hnack => ?_⟩, fun k hk hle => ?_, fun k hk hle => ?_⟩
  · rw [busWrite_of_taken stop ((write_taken_iff a bytes d).2 ⟨hbroken, hnack⟩)]
    exact ⟨rfl, rfl⟩
  · exact busWrite_fails stop fun ⟨_, hnack⟩ => absurd (hnack k hk) (by omega)
  · exact busWrite_fails stop fun ⟨hbroken, _⟩ => absurd (hbroken k hk) (by omega)

/-- With no position broken, a refused byte ends the write: those before it are acknowledged, and STOP follows it. -/
theorem sendBytes_of_nack {d : BusDraw} (hbroken : d.brokenAt = none) {l : List Byte} {k j : Nat} {b : Byte}
    (hnack : d.nackAt = some (k + j)) (hb : l[j]? = some b) :
    sendBytes d k l = (takenBytes (l.take j) ++ refusedByte b, false) := by
  induction l generalizing k j with
  | nil => simp at hb
  | cons c l ih =>
    unfold sendBytes
    cases j with
    | zero =>
      obtain rfl : c = b := by simpa using hb
      simp [hbroken, hnack, takenBytes, refusedByte]
    | succ j =>
      have hrest := ih (k := k + 1) (j := j) (by rw [hnack]; congr 1; omega) (by simpa using hb)
      simp [hbroken, hnack, hrest, takenBytes]

/-- Settles O37: the bytes are all taken, or the refused one is the last. -/
theorem writeTraffic : Obligations.WriteTraffic := by
  intro a bytes stop d hbroken
  refine ⟨fun hnack => ?_, fun k b hk hb => ?_⟩
  · have htaken := (write_taken_iff a bytes d).2 ⟨by simp [hbroken], hnack⟩
    rw [busWrite_of_taken stop htaken]
  · have hsent := sendBytes_of_nack hbroken (k := 0) (by rwa [Nat.zero_add]) hb
    rw [busWrite_of_not_taken stop (by rw [hsent]), hsent]

/-! ## Reads -/

/-- A refused address byte fails a read (R125). -/
theorem busRead_refused {a : BusAddr} {n : Fin 2} {held : Bool} {d : BusDraw} (hnack : d.nackAt = some 0) :
    (busRead a n true held d).outcome = .fail := by
  by_cases hbroken : d.brokenAt = some 0 <;> simp [busRead, hnack, hbroken]

/-- A position broken fails a read, the one after its last byte included (R126). -/
theorem busRead_broken {a : BusAddr} {n : Fin 2} {held : Bool} {d : BusDraw} {k : Nat} (hk : d.brokenAt = some k)
    (hle : k ≤ n.val + 1) : (busRead a n true held d).outcome = .fail := by
  have hpos : k = 0 ∨ k = 1 ∨ (k = 2 ∧ n = 1) := by omega
  rcases hpos with rfl | rfl | ⟨rfl, rfl⟩
  · simp [busRead, hk]
  · by_cases hnack : d.nackAt = some 0 <;> simp [busRead, hk, hnack]
  · by_cases hnack : d.nackAt = some 0 <;> simp [busRead, hk, hnack]

/-- Settles O38: the branches of BusRead for an empty read and for a read of one byte, by the first position that fails
it. -/
theorem readTransaction : Obligations.ReadTransaction := by
  intro a n held d
  refine ⟨(busRead_cases a n true held d).1, busRead_refused, fun k hk hle => busRead_broken hk hle, fun hbroken => ?_⟩
  · have hnot (j : Nat) (hj : j ≤ n.val + 1) : d.brokenAt ≠ some j := fun h => by
      have := hbroken j h
      omega
    have h₀ := hnot 0 (by omega)
    have h₁ := hnot 1 (by omega)
    refine ⟨fun hnack => ?_, fun hnack hn => ?_, fun hnack hn => ?_⟩
    · simp [busRead, h₀, hnack, refusedByte, readStart, addrByte, bit1]
    · simp [busRead, h₀, h₁, hnack, hn, readStart, addrByte, bit1, stopWhen]
    · have h₂ := hnot 2 (by rw [hn]; decide)
      simp [busRead, h₀, h₁, h₂, hnack, hn, readStart, addrByte, bit1, stopWhen]

/-! ## The temperature sum -/

/-- Settles O29: in the range of R173 the sum is a 32-bit number, and wrapping drops multiples of 2^32. -/
theorem temperatureSumRange : Obligations.TemperatureSumRange := by
  intro t off
  have hlo : -2 ^ 7 ≤ t.toInt := BitVec.le_toInt t
  have hhi : t.toInt < 2 ^ 7 := BitVec.toInt_lt
  constructor
  · intro hoff hoff'
    exact toInt_tempSum (by omega) (by omega)
  · have hwrap : (tempSum t off).toInt = (t.toInt + off.toInt).bmod (2 ^ 32) := BitVec.toInt_ofInt ..
    rw [hwrap]
    exact Int.emod_eq_zero_of_dvd (Int.dvd_bmod_sub_self)

end Sys2Proof.Proofs
end

section
/-! SUPPORT. Register accesses under every draw (R160, R161), the whole commands built from them, and the statements of
42_register_protocol.md and 43_sensor_ops.md about what a command ends with. -/

namespace Sys2Proof.Proofs

open Sys2Proof.Laws Sys2Proof.Machine

/-! ## The start of a command -/

/-- The state after the accepting step of a command that is ready (R142, R145). -/
def started (i : Instr) (s : State) : State := dispatchOf i.opcode (s.accept (encode i))

theorem issue_started {i : Instr} {s : State} (hinit : i ≠ .init) (h : ReadyFor i s) :
    applyInput (.host (issueAccess i)) s = .next (started i s) := issue_ready hinit h

/-- A dispatch leaves the latches as acceptance wrote them (R48). -/
theorem dispatchOf_latch (op : Opcode) (s : State) : (dispatchOf op s).latch = s.latch := by
  cases op with
  | init => show (dispatchInit s).latch = _; unfold dispatchInit; split <;> rfl
  | _ => rfl

theorem started_params (i : Instr) (s : State) : (started i s).params = s.params := by
  cases i with
  | init => show (dispatchInit (s.accept _)).params = _; unfold dispatchInit; split <;> rfl
  | _ => rfl

theorem started_latch (i : Instr) (s : State) :
    (started i s).latch.op = opBits i.opcode ∧ (started i s).latch.addr = i.addr ∧ (started i s).latch.off = s.offset := by
  obtain ⟨_, hop, haddr⟩ := encodedFields i
  rw [started, dispatchOf_latch, accept_latch]
  exact ⟨hop, haddr, rfl⟩

/-- The end of each command that uses the bus (R148). -/
def finishOf : Opcode → State → State
  | .init => id
  | .probe => finishProbe
  | .readConfig => finishReadConfig
  | .readTemp => finishReadTemp
  | .setStandby => finishSetStandby
  | .readReg => finishReadReg
  | .writeReg => finishWriteReg

theorem postAccess_of_op {op : Opcode} {s : State} (hop : op ≠ .init) (h : s.latch.op = opBits op) :
    postAccess s = .next (finishOf op s) := by
  unfold postAccess
  rw [h, opOfBits_opBits]
  cases op with
  | init => exact absurd rfl hop
  | _ => rfl

/-! ## Intervals -/

/-- The state in which a transaction has ended with traffic `w` and its interval begins (R131). -/
def intervalBegins (work : Working) (w : List Wire) (s : State) : State :=
  { s with seq := .quiesce, qcnt := s.params.qCycles, busHeld := false, work := work, wire := s.wire ++ w }

/-- The state in which the interval of an access with traffic `w` is over and PostAccess begins. -/
def accessOver (work : Working) (w : List Wire) (s : State) : State :=
  { s with seq := .quiesce, qcnt := 0, busHeld := false, work := work, wire := s.wire ++ w }

theorem drive_interval {work : Working} {w : List Wire} {s : State} (hrst : s.inReset = false) :
    drive (quietScript s.params) (intervalBegins work w s) = postAccess (accessOver work (w ++ [.quiet]) s) := by
  have hover : { (intervalBegins work w s).logQuiet with qcnt := 0 } = accessOver work (w ++ [.quiet]) s := by
    simp [State.logQuiet, intervalBegins, accessOver]
  rw [← hover]
  exact drive_quiesce hrst rfl rfl

/-- A transaction that ends in an interval, and the interval. -/
theorem drive_answer_interval {d : BusDraw} {work : Working} {w : List Wire} {s : State} (hrst : s.inReset = false)
    (h : seqStep (some d) s = .next (intervalBegins work w s)) :
    drive (answer d :: quietScript s.params) s = postAccess (accessOver work (w ++ [.quiet]) s) := by
  have hend : applyInput (answer d) s = .next (intervalBegins work w s) := (applyInput_seq hrst).trans h
  rw [drive_cons_next hend, drive_interval hrst]

/-- PostAccess of a running command is its own end (R148). -/
theorem postAccess_accessOver {i : Instr} (hi : i ≠ .init) (work : Working) (w : List Wire) (s : State) :
    postAccess (accessOver work w (started i s)) = .next (finishOf i.opcode (accessOver work w (started i s))) :=
  postAccess_of_op (fun hop => hi (opcode_eq_init hop)) (started_latch i s).1

/-! ## Read accesses -/

/-- What a read access leaves in the working registers (R49, R146): the byte, or which of its transactions failed. -/
def workAfterRead (e : Except Code Byte) (k : Working) : Working :=
  match e with
  | .ok b => { k with rxb := b, accOk := true }
  | .error c => { k with accOk := false, accFail := c == .failRead }

/-- WR_TX of a read access whose command byte is not taken (R146). -/
theorem seqStep_commandByteFails {a : BusAddr} {c : Byte} {d : BusDraw} {s : State} (h : ReadStarted a c s)
    (hfail : (busWrite a [c] false d).outcome = .fail) :
    seqStep (some d) s =
      .next (intervalBegins (workAfterRead (.error .failWrite) s.work) (busWrite a [c] false d).wire s) := by
  have hheld : (busWrite a [c] false d).held = false := by
    rcases busWrite_cases a [c] false d with ⟨hcount, _⟩ | ⟨_, hheld⟩
    · rw [hfail] at hcount; cases hcount
    · exact hheld
  simp [seqStep, h.atWrite, whenAnswered, wrTxStep, h.reads, heldWriteStep, h.configured, h.free, h.addr, h.command,
    hfail, hheld, State.afterTx, State.recordAccess, State.enterQuiesce, intervalBegins, workAfterRead]

/-- RD_TX on a held bus (R146). -/
theorem seqStep_heldRead {a : BusAddr} {d : BusDraw} {s : State} (hseq : s.seq = .rdTx) (haddr : s.latch.addr = a)
    (hbus : s.busConfigured = true) (hheld : s.busHeld = true) :
    seqStep (some d) s =
      .next (intervalBegins
        (workAfterRead (if (busRead a 1 true true d).outcome = .fail then .error .failRead else .ok d.data) s.work)
        (busRead a 1 true true d).wire s) := by
  obtain ⟨hfree, hbytes | hfail⟩ := busRead_cases a 1 true true d
  · simp [seqStep, hseq, whenAnswered, rdTxStep, hbus, hheld, haddr, hbytes, hfree, State.afterTx, State.recordByte,
      State.enterQuiesce, intervalBegins, workAfterRead]
  · simp [seqStep, hseq, whenAnswered, rdTxStep, hbus, hheld, haddr, hfail, hfree, State.afterTx, State.recordAccess,
      State.enterQuiesce, intervalBegins, workAfterRead]

/-- A write of one byte that does not fail takes it. -/
theorem takesCommand_or_fail (a : BusAddr) (c : Byte) (d : BusDraw) :
    d.takesCommand a c ∨ (busWrite a [c] false d).outcome = .fail := by
  rcases busWrite_cases a [c] false d with ⟨hcount, _⟩ | ⟨hfail, _⟩
  · exact .inl hcount
  · exact .inr hfail

/-- A read of one byte that does not fail sends it. -/
theorem sendsByte_or_fail (a : BusAddr) (d : BusDraw) :
    d.sendsByte a ∨ (busRead a 1 true true d).outcome = .fail := (busRead_cases a 1 true true d).2

theorem readAccess_of_refused {p : Params} {a : BusAddr} {c : Byte} {d₁ : BusDraw} (d₂ : BusDraw)
    (hfail : (busWrite a [c] false d₁).outcome = .fail) :
    readAccess p a c d₁ d₂ =
      { ending := .error .failWrite
        wire := (busWrite a [c] false d₁).wire ++ [.quiet]
        script := answer d₁ :: quietScript p } := by
  simp [readAccess, hfail]

theorem readAccess_of_taken {p : Params} {a : BusAddr} {c : Byte} {d₁ d₂ : BusDraw} (htake : d₁.takesCommand a c) :
    readAccess p a c d₁ d₂ =
      { ending := if (busRead a 1 true true d₂).outcome = .fail then .error .failRead else .ok d₂.data
        wire := (busWrite a [c] false d₁).wire ++ (busRead a 1 true true d₂).wire ++ [.quiet]
        script := answer d₁ :: answer d₂ :: quietScript p } := by
  have hcount : (busWrite a [c] false d₁).outcome = .count 1 := htake
  simp [readAccess, hcount]

theorem readAccess_of_good {p : Params} {a : BusAddr} {c : Byte} {d₁ d₂ : BusDraw} (htake : d₁.takesCommand a c)
    (hsend : d₂.sendsByte a) :
    readAccess p a c d₁ d₂ =
      { ending := .ok d₂.data
        wire := goodReadWire a c d₂.data
        script := answer d₁ :: answer d₂ :: quietScript p } := by
  rw [readAccess_of_taken htake, busWrite_of_takesCommand htake, busRead_of_sendsByte hsend]
  simp [goodReadWire]

/-- A read access ends with the byte of its read, or with the code of the transaction that failed (R160). -/
theorem readAccess_cases (p : Params) (a : BusAddr) (c : Byte) (d₁ d₂ : BusDraw) :
    (d₁.takesCommand a c ∧ d₂.sendsByte a) ∨ (readAccess p a c d₁ d₂).ending = .error .failWrite ∨
      (readAccess p a c d₁ d₂).ending = .error .failRead := by
  rcases takesCommand_or_fail a c d₁ with htake | hfail
  · rcases sendsByte_or_fail a d₂ with hsend | hfail
    · exact .inl ⟨htake, hsend⟩
    · rw [readAccess_of_taken htake, if_pos hfail]
      exact .inr (.inr rfl)
  · rw [readAccess_of_refused d₂ hfail]
    exact .inr (.inl rfl)

theorem readAccess_error {p : Params} {a : BusAddr} {c : Byte} {d₁ d₂ : BusDraw} {e : Code}
    (hend : (readAccess p a c d₁ d₂).ending = .error e) : e = .failWrite ∨ e = .failRead := by
  rcases readAccess_cases p a c d₁ d₂ with ⟨htake, hsend⟩ | hcode | hcode
  · rw [readAccess_of_good htake hsend] at hend; cases hend
  · rw [hend] at hcode; exact .inl (Except.error.inj hcode)
  · rw [hend] at hcode; exact .inr (Except.error.inj hcode)

/-- R160's read access under any draws, up to PostAccess. -/
theorem drive_readAccess {a : BusAddr} {c : Byte} {s : State} (d₁ d₂ : BusDraw) (h : ReadStarted a c s) :
    drive (readAccess s.params a c d₁ d₂).script s =
      postAccess (accessOver (workAfterRead (readAccess s.params a c d₁ d₂).ending s.work)
        (readAccess s.params a c d₁ d₂).wire s) := by
  rcases takesCommand_or_fail a c d₁ with htake | hfail
  · have hwrite : applyInput (answer d₁) s = .next (afterCommandByte a c s) :=
      (applyInput_seq h.notInReset).trans (seqStep_takesCommand h htake)
    have hread := drive_answer_interval (s := afterCommandByte a c s) (d := d₂) h.notInReset
      (seqStep_heldRead rfl h.addr h.configured rfl)
    rw [readAccess_of_taken htake, drive_cons_next hwrite]
    refine hread.trans ?_
    rw [busWrite_of_takesCommand htake]
    simp [accessOver, afterCommandByte]
  · rw [readAccess_of_refused d₂ hfail]
    exact drive_answer_interval h.notInReset (seqStep_commandByteFails h hfail)

/-! ## Write accesses -/

/-- A write access of the command byte `c` and the byte `v` at address `a` has been started (R145), with the bus configured
and free as R122 requires. -/
structure WriteStarted (a : BusAddr) (c v : Byte) (s : State) : Prop where
  notInReset : s.inReset = false
  atWrite : s.seq = .wrTx
  writes : s.work.accKind = .write
  addr : s.latch.addr = a
  command : s.work.accCmdb = c
  value : s.work.accData = v
  configured : s.busConfigured = true
  free : s.busHeld = false

/-- What a write access leaves in the working registers (R49, R146). -/
def workAfterWrite (e : Except Code Unit) (k : Working) : Working := { k with accOk := e.isOk, accFail := false }

/-- WR_TX of a write access (R146). -/
theorem seqStep_wholeWrite {a : BusAddr} {c v : Byte} {d : BusDraw} {s : State} (h : WriteStarted a c v s) :
    seqStep (some d) s =
      .next (intervalBegins (workAfterWrite (writeAccess s.params a c v d).ending s.work)
        (busWrite a [c, v] true d).wire s) := by
  rcases busWrite_cases a [c, v] true d with ⟨hout, hheld⟩ | ⟨hout, hheld⟩ <;>
  simp [seqStep, h.atWrite, whenAnswered, wrTxStep, h.writes, wholeWriteStep, h.configured, h.free, h.addr, h.command,
    h.value, hout, hheld, State.afterTx, State.recordAccess, State.enterQuiesce, intervalBegins, workAfterWrite,
    writeAccess, Except.isOk, Except.toBool]

/-- R161's write access under any draw, up to PostAccess. -/
theorem drive_writeAccess {a : BusAddr} {c v : Byte} {s : State} (d : BusDraw) (h : WriteStarted a c v s) :
    drive (writeAccess s.params a c v d).script s =
      postAccess (accessOver (workAfterWrite (writeAccess s.params a c v d).ending s.work)
        (writeAccess s.params a c v d).wire s) :=
  drive_answer_interval h.notInReset (seqStep_wholeWrite h)

/-! ## Whole commands -/

/-- The state a ready command ends in, for a run by its whole-command rule and some working registers. -/
def completed (i : Instr) (r : CommandRun) (work : Working) (s : State) : State :=
  { s with
    cmd := encode i
    latch := latchesOf (encode i) s.offset
    done := true
    code := r.code
    result := r.result
    subop := r.subop
    seq := .idle
    busHeld := false
    qcnt := 0
    work := work
    wire := s.wire ++ r.wire }

/-- A dispatch changes SEQ and the working registers only (R145). -/
theorem dispatchOf_frame {op : Opcode} (hop : op ≠ .init) (s : State) :
    ∃ x k, dispatchOf op s = { s with seq := x, work := k } := by
  cases op with
  | init => exact absurd rfl hop
  | _ => exact ⟨_, _, rfl⟩

/-- A command that completes after its last access has changed nothing but what `completed` names. -/
theorem complete_accessOver {i : Instr} (hi : i ≠ .init) (r : CommandRun) (work : Working) (s : State) :
    (accessOver work r.wire (started i s)).complete r.code r.result r.subop = completed i r work s := by
  obtain ⟨x, k, hframe⟩ := dispatchOf_frame (fun hop => hi (opcode_eq_init hop)) (s.accept (encode i))
  rw [started, hframe]
  rfl

/-- The command `i` at address `a` begins with a read access of the command byte `c` (R145). -/
def ReadsFirst (p : Params) (a : BusAddr) (i : Instr) (c : Byte) : Prop :=
  (∃ r, i = .readReg a r ∧ c = cmdByte p r) ∨ (i = .readConfig a ∧ c = p.cmdConfig) ∨
    (i = .readTemp a ∧ c = p.cmdConfig)

theorem ReadsFirst.ne_init {p : Params} {a : BusAddr} {i : Instr} {c : Byte} (hi : ReadsFirst p a i c) : i ≠ .init := by
  rcases hi with ⟨r, rfl, _⟩ | ⟨rfl, _⟩ | ⟨rfl, _⟩ <;> exact Instr.noConfusion

theorem readStarted_of_readsFirst {a : BusAddr} {i : Instr} {c : Byte} {s : State} (hi : ReadsFirst s.params a i c)
    (h : ReadyFor i s) : ReadStarted a c (started i s) := by
  obtain ⟨_, haddr, _⟩ := started_latch i s
  rcases hi with ⟨r, rfl, rfl⟩ | ⟨rfl, rfl⟩ | ⟨rfl, rfl⟩
  · exact ⟨h.notInReset, rfl, rfl, haddr, by simp [started, dispatchOf, Instr.opcode, dispatchReadReg, encode],
      h.configured, h.free⟩
  · exact ⟨h.notInReset, rfl, rfl, haddr, rfl, h.configured, h.free⟩
  · exact ⟨h.notInReset, rfl, rfl, haddr, rfl, h.configured, h.free⟩

/-- The whole-command rule of a command that begins with a read access, when that access fails. -/
theorem drive_readFails {a : BusAddr} {i : Instr} {c : Byte} {e : Code} {d₁ d₂ : BusDraw} {s : State}
    (hi : ReadsFirst s.params a i c) (h : ReadyFor i s) (hend : (readAccess s.params a c d₁ d₂).ending = .error e) :
    drive (.host (issueAccess i) :: (readAccess s.params a c d₁ d₂).script) s =
      .next (completed i (oneReadRun (failVal i.opcode) (readAccess s.params a c d₁ d₂))
        (workAfterRead (.error e) (started i s).work) s) := by
  have hcode := readAccess_error hend
  have hrun := drive_readAccess d₁ d₂ (readStarted_of_readsFirst hi h)
  rw [started_params, hend, postAccess_accessOver hi.ne_init] at hrun
  have hfinish : finishOf i.opcode (accessOver (workAfterRead (.error e) (started i s).work)
      (readAccess s.params a c d₁ d₂).wire (started i s)) =
      (accessOver (workAfterRead (.error e) (started i s).work)
        (readAccess s.params a c d₁ d₂).wire (started i s)).complete e (failVal i.opcode) false := by
    rcases hcode with rfl | rfl <;> rcases hi with ⟨r, rfl, _⟩ | ⟨rfl, _⟩ | ⟨rfl, _⟩ <;> rfl
  rw [drive_cons_next (issue_started hi.ne_init h), hrun, hfinish, ← complete_accessOver hi.ne_init]
  simp only [oneReadRun, hend]

/-- The command `i` at address `a` is one read access of the command byte `c` (R162, R171). -/
def ReadsOnce (p : Params) (a : BusAddr) (i : Instr) (c : Byte) : Prop :=
  (∃ r, i = .readReg a r ∧ c = cmdByte p r) ∨ (i = .readConfig a ∧ c = p.cmdConfig)

theorem ReadsOnce.readsFirst {p : Params} {a : BusAddr} {i : Instr} {c : Byte} (hi : ReadsOnce p a i c) :
    ReadsFirst p a i c := hi.imp_right .inl

/-- READ_REG and READ_CONFIG by their whole-command rule. -/
theorem drive_oneRead {a : BusAddr} {i : Instr} {c : Byte} {s : State} (d₁ d₂ : BusDraw)
    (hi : ReadsOnce s.params a i c) (h : ReadyFor i s) :
    drive (.host (issueAccess i) :: (readAccess s.params a c d₁ d₂).script) s =
      .next (completed i (oneReadRun (failVal i.opcode) (readAccess s.params a c d₁ d₂))
        (workAfterRead (readAccess s.params a c d₁ d₂).ending (started i s).work) s) := by
  have hfirst := hi.readsFirst
  cases hend : (readAccess s.params a c d₁ d₂).ending with
  | error e => exact drive_readFails hfirst h hend
  | ok b =>
    have hrun := drive_readAccess d₁ d₂ (readStarted_of_readsFirst hfirst h)
    rw [started_params, hend, postAccess_accessOver hfirst.ne_init] at hrun
    have hfinish : finishOf i.opcode (accessOver (workAfterRead (.ok b) (started i s).work)
        (readAccess s.params a c d₁ d₂).wire (started i s)) =
        (accessOver (workAfterRead (.ok b) (started i s).work)
          (readAccess s.params a c d₁ d₂).wire (started i s)).complete .ok (zext32 b) false := by
      rcases hi with ⟨r, rfl, _⟩ | ⟨rfl, _⟩ <;> rfl
    rw [drive_cons_next (issue_started hfirst.ne_init h), hrun, hfinish, ← complete_accessOver hfirst.ne_init]
    simp only [oneReadRun, hend]

/-- The command `i` at address `a` is one write access of the byte `v` to the command byte `c` (R163, R174). -/
def WritesOnce (p : Params) (a : BusAddr) (i : Instr) (c v : Byte) : Prop :=
  (∃ r, i = .writeReg a r v ∧ c = cmdByte p r) ∨
    (∃ e, i = .setStandby a e ∧ c = p.cmdConfig ∧ v = if e then 0x80#8 else 0x00#8)

theorem WritesOnce.ne_init {p : Params} {a : BusAddr} {i : Instr} {c v : Byte} (hi : WritesOnce p a i c v) :
    i ≠ .init := by
  rcases hi with ⟨r, rfl, _⟩ | ⟨e, rfl, _⟩ <;> exact Instr.noConfusion

theorem writeStarted_of_writesOnce {a : BusAddr} {i : Instr} {c v : Byte} {s : State}
    (hi : WritesOnce s.params a i c v) (h : ReadyFor i s) : WriteStarted a c v (started i s) := by
  obtain ⟨_, haddr, _⟩ := started_latch i s
  rcases hi with ⟨r, rfl, rfl⟩ | ⟨e, rfl, rfl, rfl⟩
  · exact ⟨h.notInReset, rfl, rfl, haddr, by simp [started, dispatchOf, Instr.opcode, dispatchWriteReg, encode],
      by simp [started, dispatchOf, Instr.opcode, dispatchWriteReg, encode], h.configured, h.free⟩
  · exact ⟨h.notInReset, rfl, rfl, haddr, rfl,
      by simp [started, dispatchOf, Instr.opcode, dispatchSetStandby, encode, standbyByte_eq], h.configured, h.free⟩

/-- A write access ends well or with FAIL_WRITE (R161). -/
theorem writeAccess_cases (p : Params) (a : BusAddr) (c v : Byte) (d : BusDraw) :
    (writeAccess p a c v d).ending = .ok () ∨ (writeAccess p a c v d).ending = .error .failWrite := by
  by_cases hfail : (busWrite a [c, v] true d).outcome = .fail
  · exact .inr (by simp [writeAccess, hfail])
  · exact .inl (by simp [writeAccess, hfail])

/-- WRITE_REG and SET_STANDBY by their whole-command rule. -/
theorem drive_oneWrite {a : BusAddr} {i : Instr} {c v : Byte} {s : State} (d : BusDraw)
    (hi : WritesOnce s.params a i c v) (h : ReadyFor i s) :
    drive (.host (issueAccess i) :: (writeAccess s.params a c v d).script) s =
      .next (completed i (oneWriteRun (writeAccess s.params a c v d))
        (workAfterWrite (writeAccess s.params a c v d).ending (started i s).work) s) := by
  have hrun := drive_writeAccess d (writeStarted_of_writesOnce hi h)
  rw [started_params, postAccess_accessOver hi.ne_init] at hrun
  rw [drive_cons_next (issue_started hi.ne_init h), hrun, ← complete_accessOver hi.ne_init]
  rcases writeAccess_cases s.params a c v d with hend | hend <;> simp only [oneWriteRun, hend] <;>
    rcases hi with ⟨r, rfl, _⟩ | ⟨e, rfl, _⟩ <;> rfl

/-! ## PROBE -/

/-- What PROBE's read leaves in the working registers (R49, R146). -/
def workAfterProbe (o : TxOutcome) (k : Working) : Working := { k with accOk := o != .fail, accFail := o == .fail }

/-- PROBE_RD under any draw (R146). -/
theorem seqStep_probe {a : BusAddr} {d : BusDraw} {s : State} (h : ReadyFor (.probe a) s) :
    seqStep (some d) (started (.probe a) s) =
      .next (intervalBegins (workAfterProbe (busRead a s.params.probeLen true false d).outcome s.work)
        (busRead a s.params.probeLen true false d).wire (started (.probe a) s)) := by
  obtain ⟨hfree, _⟩ := busRead_cases a s.params.probeLen true false d
  have hheld : (started (.probe a) s).busHeld = false := h.free
  have hbus : (started (.probe a) s).busConfigured = true := h.configured
  have haddr : (started (.probe a) s).latch.addr = a := (started_latch (.probe a) s).2.1
  show probeRdStep d (started (.probe a) s) = _
  rw [probeRdStep, if_pos hbus, hheld, haddr, started_params]
  simp only [State.afterTx, State.recordAccess, State.enterQuiesce, intervalBegins, hfree]
  rfl

/-- PROBE by its whole-command rule (R170). -/
theorem drive_probe {a : BusAddr} {s : State} (d : BusDraw) (h : ReadyFor (.probe a) s) :
    drive (.host (issueAccess (.probe a)) :: (probeRun s.params a d).script) s =
      .next (completed (.probe a) (probeRun s.params a d)
        (workAfterProbe (busRead a s.params.probeLen true false d).outcome s.work) s) := by
  have hrun := drive_answer_interval (s := started (.probe a) s) h.notInReset (seqStep_probe (d := d) h)
  rw [postAccess_accessOver Instr.noConfusion] at hrun
  rw [drive_cons_next (issue_started Instr.noConfusion h), ← complete_accessOver Instr.noConfusion]
  refine hrun.trans ?_
  by_cases hfail : (busRead a s.params.probeLen true false d).outcome = .fail <;>
    simp [probeRun, finishOf, finishProbe, accessOver, workAfterProbe, Instr.opcode, hfail]

/-! ## READ_TEMP -/

/-- READ_TEMP's temperature access under any draws, after a good configuration access with bit 6 set (R172). -/
theorem drive_tempAccess {a : BusAddr} {d₁ d₂ : BusDraw} {s : State} (d₃ d₄ : BusDraw) (h : ReadyFor (.readTemp a) s)
    (htake : d₁.takesCommand a s.params.cmdConfig) (hsend : d₂.sendsByte a) (hbit : d₂.data.getLsbD 6 = true) :
    drive (.host (issueAccess (.readTemp a)) :: answer d₁ :: answer d₂ ::
        (quietScript s.params ++ .seq none :: (readAccess s.params a s.params.cmdTemp d₃ d₄).script)) s =
      .next (finishReadTemp (accessOver
        (workAfterRead (readAccess s.params a s.params.cmdTemp d₃ d₄).ending (tempAccessStarted a d₂.data s).work)
        (readAccess s.params a s.params.cmdTemp d₃ d₄).wire (tempAccessStarted a d₂.data s))) := by
  rw [drive_readTemp_check _ h htake hsend, checkReady_of_ready hbit]
  refine (drive_readAccess d₃ d₄ (readStarted_temp d₂.data h)).trans (postAccess_readTemp ?_)
  show (readTempStarted a s).latch.op = _
  rw [readTempStarted_latch]

/-! ## What a command ends with -/

/-- Settles O22: the read access is good, and the rule of one read access returns its byte. -/
theorem readCommandsReturnByte : Obligations.ReadCommandsReturnByte := by
  intro s a i c d₁ d₂ hi h htake hsend
  have hrun := drive_oneRead d₁ d₂ hi h
  rw [readAccess_of_good htake hsend] at hrun
  refine ⟨_, hrun, rfl, rfl, rfl, rfl, ?_, rfl⟩
  show (zext32 d₂.data).toNat = d₂.data.toNat
  rw [zext32, BitVec.toNat_setWidth, Nat.mod_eq_of_lt (d₂.data.isLt.trans (by decide))]

/-- A dispatch does not write RXB (R49). -/
theorem started_rxb (i : Instr) (s : State) : (started i s).work.rxb = s.work.rxb := by
  cases i with
  | init => show (dispatchInit (s.accept _)).work.rxb = _; unfold dispatchInit; split <;> rfl
  | _ => rfl

/-- Settles O23: the rule of a read access that fails, with the failed write as its only transaction. -/
theorem refusedCommandByteEndsRead : Obligations.RefusedCommandByteEndsRead := by
  intro s a i c d hi h hfail
  have hacc := readAccess_of_refused (p := s.params) d hfail
  have hrun := drive_readFails (d₂ := d) hi h (congrArg AccessRun.ending hacc)
  rw [hacc] at hrun
  exact ⟨_, hrun, rfl, rfl, rfl, rfl, rfl, rfl, started_rxb i s, (List.append_assoc ..).symm⟩

/-- Settles O24: the rule of a read access that fails, with the command byte taken. -/
theorem failedReadEndsCommand : Obligations.FailedReadEndsCommand := by
  intro s a i c d₁ d₂ hi h htake hfail
  have hacc := readAccess_of_taken (p := s.params) (d₂ := d₂) htake
  rw [if_pos hfail] at hacc
  have hrun := drive_readFails hi h (congrArg AccessRun.ending hacc)
  rw [hacc] at hrun
  exact ⟨_, hrun, rfl, rfl, rfl, rfl, rfl, rfl, started_rxb i s⟩

/-- Settles O25: the rule of one write access under any draw. -/
theorem writeCommandsComplete : Obligations.WriteCommandsComplete := by
  intro s a i c v d hi h
  have hrun := drive_oneWrite d hi h
  refine ⟨_, hrun, ?_⟩
  by_cases hfail : (busWrite a [c, v] true d).outcome = .fail <;>
    simp [completed, oneWriteRun, writeAccess, hfail]

/-- Settles O26: READ_TEMP's run with both accesses good. -/
theorem readTempReturnsSum : Obligations.ReadTempReturnsSum := by
  intro s a d₁ d₂ d₃ d₄ h htake₁ hsend₂ hbit htake₃ hsend₄
  exact ⟨_, drive_readTempScript h htake₁ hsend₂ hbit htake₃ hsend₄, rfl, rfl, rfl, rfl, rfl, List.append_assoc ..⟩

/-- Settles O28: the temperature access fails by its write or by its read, and READ_TEMP ends at STAGE 1. -/
theorem temperatureAccessFailure : Obligations.TemperatureAccessFailure := by
  intro s a d₁ d₂ d₃ d₄ h htake hsend hbit
  have hrun := drive_tempAccess d₃ d₄ h htake hsend hbit
  constructor
  · intro hfail
    rw [readAccess_of_refused d₄ hfail] at hrun
    exact ⟨_, hrun, rfl, rfl, rfl, rfl, rfl⟩
  · intro htake₃ hfail
    rw [readAccess_of_taken htake₃, if_pos hfail] at hrun
    exact ⟨_, hrun, rfl, rfl, rfl, rfl, rfl⟩

/-! ## Refinement -/

/-- READ_TEMP's end after a temperature access that failed (R148, R172). -/
theorem finishReadTemp_tempFailed {a : BusAddr} {b : Byte} {e : Code} (w : List Wire) (s : State)
    (hcode : e = .failWrite ∨ e = .failRead) :
    finishReadTemp (accessOver (workAfterRead (.error e) (tempAccessStarted a b s).work) w (tempAccessStarted a b s)) =
      (accessOver (workAfterRead (.error e) (tempAccessStarted a b s).work) w (tempAccessStarted a b s)).complete e
        tempSentinel true := by
  rcases hcode with rfl | rfl <;> rfl

/-- What READ_TEMP has changed when it completes after both accesses. -/
theorem complete_tempAccess (a : BusAddr) (b : Byte) (c : Code) (r : Word) (w : List Wire) (l : List Input)
    (work : Working) (s : State) :
    (accessOver work w (tempAccessStarted a b s)).complete c r true =
      completed (.readTemp a)
        { code := c, result := r, subop := true, wire := goodReadWire a s.params.cmdConfig b ++ w, script := l } work s := by
  simp only [completed, ← List.append_assoc]
  rfl

/-- READ_TEMP by its whole-command rule (R172): the configuration access fails, or its byte is not ready, or the
temperature access decides. -/
theorem drive_readTemp {a : BusAddr} {s : State} (d₁ d₂ d₃ d₄ : BusDraw) (h : ReadyFor (.readTemp a) s) :
    ∃ work, drive (.host (issueAccess (.readTemp a)) ::
        (commandRun s.params s.offset d₁ d₂ d₃ d₄ (.readTemp a)).script) s =
      .next (completed (.readTemp a) (commandRun s.params s.offset d₁ d₂ d₃ d₄ (.readTemp a)) work s) := by
  simp only [commandRun]
  have hfirst : ReadsFirst s.params a (.readTemp a) s.params.cmdConfig := .inr (.inr ⟨rfl, rfl⟩)
  cases hend : (readAccess s.params a s.params.cmdConfig d₁ d₂).ending with
  | error e =>
    have hrun := drive_readFails hfirst h hend
    simp only [oneReadRun, hend] at hrun
    simp only [readTempRun, hend]
    exact ⟨_, hrun⟩
  | ok cfg =>
    obtain ⟨htake, hsend⟩ : d₁.takesCommand a s.params.cmdConfig ∧ d₂.sendsByte a := by
      rcases readAccess_cases s.params a s.params.cmdConfig d₁ d₂ with hgood | hcode | hcode
      · exact hgood
      · rw [hend] at hcode; cases hcode
      · rw [hend] at hcode; cases hcode
    rw [readAccess_of_good htake hsend]
    cases hbit : d₂.data.getLsbD 6 with
    | false =>
      have hrun := drive_readTemp_check [] h htake hsend
      rw [drive_nil, checkReady_of_notReady hbit] at hrun
      simp only [readTempRun, hbit]
      exact ⟨_, hrun⟩
    | true =>
      have hrun := drive_tempAccess d₃ d₄ h htake hsend hbit
      cases hend₂ : (readAccess s.params a s.params.cmdTemp d₃ d₄).ending with
      | error e =>
        rw [hend₂, finishReadTemp_tempFailed _ _ (readAccess_error hend₂)] at hrun
        simp only [readTempRun, hbit, hend₂, if_true]
        exact ⟨_, hrun.trans (congrArg _ (complete_tempAccess ..))⟩
      | ok t =>
        rw [hend₂, finishReadTemp_temp rfl rfl] at hrun
        simp only [readTempRun, hbit, hend₂, if_true]
        exact ⟨_, hrun.trans (congrArg _ (complete_tempAccess ..))⟩

theorem oneReadRun_script (f : Word) (r : AccessRun Byte) : (oneReadRun f r).script = r.script := by
  unfold oneReadRun
  split <;> rfl

theorem oneWriteRun_script (r : AccessRun Unit) : (oneWriteRun r).script = r.script := by
  unfold oneWriteRun
  split <;> rfl

/-- Settles O21: each command by its own rule, and SEQ and BUS_HELD end as they were in the idle state. -/
theorem sequencerRefinesCommands : Obligations.SequencerRefinesCommands := by
  intro s i d₁ d₂ d₃ d₄ hinit h
  have hrun : ∃ work, drive (.host (issueAccess i) :: (commandRun s.params s.offset d₁ d₂ d₃ d₄ i).script) s =
      .next (completed i (commandRun s.params s.offset d₁ d₂ d₃ d₄ i) work s) := by
    cases i with
    | init => exact absurd rfl hinit
    | probe a => exact ⟨_, drive_probe d₁ h⟩
    | readConfig a =>
      have hi : ReadsOnce s.params a (.readConfig a) s.params.cmdConfig := .inr ⟨rfl, rfl⟩
      simp only [commandRun, oneReadRun_script]
      exact ⟨_, drive_oneRead d₁ d₂ hi h⟩
    | readTemp a => exact drive_readTemp d₁ d₂ d₃ d₄ h
    | setStandby a e =>
      have hi : WritesOnce s.params a (.setStandby a e) s.params.cmdConfig (if e then 0x80#8 else 0x00#8) :=
        .inr ⟨e, rfl, rfl, rfl⟩
      simp only [commandRun, oneWriteRun_script]
      exact ⟨_, drive_oneWrite d₁ hi h⟩
    | readReg a r =>
      have hi : ReadsOnce s.params a (.readReg a r) (cmdByte s.params r) := .inl ⟨r, rfl, rfl⟩
      simp only [commandRun, oneReadRun_script]
      exact ⟨_, drive_oneRead d₁ d₂ hi h⟩
    | writeReg a r v =>
      have hi : WritesOnce s.params a (.writeReg a r v) (cmdByte s.params r) v := .inl ⟨r, rfl, rfl⟩
      simp only [commandRun, oneWriteRun_script]
      exact ⟨_, drive_oneWrite d₁ hi h⟩
  obtain ⟨work, hwork⟩ := hrun
  refine ⟨work, hwork.trans ?_⟩
  simp only [completed, h.idle, h.free]

end Sys2Proof.Proofs
end

section
/-! SUPPORT. The reference target as an environment, and the statements of 60_exceptions.md and 43_sensor_ops.md about
it. -/

namespace Sys2Proof.Proofs

open Sys2Proof.Laws Sys2Proof.Machine

/-! ## Steps with the reference target -/

/-- `s` with another list of reference targets. -/
def withTargets (l : List (BusAddr × Target)) (s : State) : State := { s with targets := l }

theorem refStep_of_running {s : State} {x : Tx} (h : s.runningTx = some x) :
    refStep s =
      seqStep (some (refDraw s.params (targetAt s.targets x.addr) x))
        (withTargets (targetsAfter s.params x s.targets) s) := by
  simp only [refStep, h, withTargets]

/-- Settles O57: without a running transaction the step brings no outcome, and with one the target fixes the draw. -/
theorem referenceTargetIsADraw : Obligations.ReferenceTargetIsADraw := by
  intro s
  cases h : s.runningTx with
  | none => exact ⟨none, s.targets, by simp only [refStep, h]⟩
  | some x => exact ⟨_, _, refStep_of_running h⟩

/-- With reset released, the reference target answers the running transaction by the draw it fixes, and its registers
change with it. -/
theorem drive_seqRef_cons {s : State} {x : Tx} {l : List Input} (hrst : s.inReset = false) (h : s.runningTx = some x) :
    drive (.seqRef :: l) s =
      drive (answer (refDraw s.params (targetAt s.targets x.addr) x) :: l)
        (withTargets (targetsAfter s.params x s.targets) s) := by
  have hstep : applyInput .seqRef s =
      applyInput (answer (refDraw s.params (targetAt s.targets x.addr) x))
        (withTargets (targetsAfter s.params x s.targets) s) := by
    have hrst' : (withTargets (targetsAfter s.params x s.targets) s).inReset = false := hrst
    simp [applyInput, answer, refInput, seqInput, hrst, hrst', refStep_of_running h]
  rw [drive_cons, drive_cons, hstep]

/-- A transaction changes a present target at its own address and no other. -/
theorem targetAt_targetsAfter {p : Params} {x : Tx} {l : List (BusAddr × Target)} (h : targetsRising l = true)
    (b : BusAddr) :
    targetAt (targetsAfter p x l) b =
      if b = x.addr then (targetAt l b).map (fun t => if t.present then t.after p x else t) else targetAt l b := by
  unfold targetsAfter
  cases hx : targetAt l x.addr with
  | none => by_cases hb : b = x.addr <;> simp [hb, hx]
  | some t =>
    cases hp : t.present <;> by_cases hb : b = x.addr <;> simp [hb, hx, hp, targetAt_putTarget h]

/-! ## Conversions -/

/-- Settles O60: the list is written at the one address, with what the convert step makes of its target. -/
theorem conversionSetsReady : Obligations.ConversionSetsReady := by
  intro s a b g rest hin hrise hg
  have hconvert : g.convert b = if g.present = true ∧ g.shdn = false then { g with temp := b, dataRdy := true } else g := by
    simp [Target.convert]
  refine ⟨putTarget s.targets a (g.convert b), ?_, ?_, fun c hc => ?_⟩
  · rw [step_of_inputs_cons hin]
    simp only [applyInput, State.convertAt, hg]
  · rw [targetAt_putTarget hrise, if_pos rfl, hconvert]
  · rw [targetAt_putTarget hrise, if_neg hc]

/-! ## PROBE -/

/-- A read changes no reference target. -/
theorem targetAt_targetsAfter_read {p : Params} {a b : BusAddr} {n : Fin 2} {stop : Bool} {l : List (BusAddr × Target)}
    (h : targetsRising l = true) : targetAt (targetsAfter p (.read a n stop) l) b = targetAt l b := by
  rw [targetAt_targetsAfter h]
  split
  · cases targetAt l b with
    | none => rfl
    | some t => simp [Target.after]
  · rfl

/-- A read that the reference target answers succeeds when the target is present, and is refused at its address byte when
none is (R221, R222). -/
theorem busRead_refDraw (p : Params) (t : Option Target) (a : BusAddr) (n : Fin 2) (held : Bool) :
    (busRead a n true held (refDraw p t (.read a n true))).outcome = .fail ↔ ¬ ∃ g, t = some g ∧ g.present = true := by
  have hn : n = 0 ∨ n = 1 := by omega
  cases t with
  | none => simp [refDraw, busRead_refused, BusDraw.refuse]
  | some g =>
    cases hg : g.present with
    | false => simp [refDraw, hg, busRead_refused, BusDraw.refuse]
    | true => rcases hn with rfl | rfl <;> simp [refDraw, hg, busRead, BusDraw.good]

/-- A list of targets plays no part in whether a command is ready. -/
theorem readyFor_withTargets {i : Instr} {s : State} (h : ReadyFor i s) (l : List (BusAddr × Target)) :
    ReadyFor i (withTargets l s) :=
  ⟨h.notInReset, h.idle, h.initDone, h.configured, h.free, h.addr⟩

/-- PROBE's transaction, once it is started (R81). -/
theorem started_probe_runningTx (a : BusAddr) (s : State) :
    (started (.probe a) s).runningTx = some (.read a s.params.probeLen true) := by
  show some (Tx.read (started (.probe a) s).latch.addr s.params.probeLen true) = _
  rw [(started_latch (.probe a) s).2.1, Instr.addr]

/-- PROBE with the reference target as the environment: the target's draw, on the targets it leaves. -/
theorem drive_probe_seqRef {a : BusAddr} {s : State} (h : ReadyFor (.probe a) s) :
    let x := Tx.read a s.params.probeLen true
    let r := probeRun s.params a (refDraw s.params (targetAt s.targets a) x)
    ∃ work, drive (.host (issueAccess (.probe a)) :: .seqRef :: quietScript s.params) s =
      .next (completed (.probe a) r work (withTargets (targetsAfter s.params x s.targets) s)) := by
  have h' := readyFor_withTargets h (targetsAfter s.params (.read a s.params.probeLen true) s.targets)
  have hrun := drive_probe (refDraw s.params (targetAt s.targets a) (.read a s.params.probeLen true)) h'
  rw [drive_cons_next (issue_started Instr.noConfusion h')] at hrun
  rw [drive_cons_next (issue_started Instr.noConfusion h),
    drive_seqRef_cons (s := started (.probe a) s) h.notInReset (started_probe_runningTx a s)]
  exact ⟨_, hrun⟩

/-- Settles O58: the read leaves every target as it was, and succeeds when one is present. -/
theorem probeIsPure : Obligations.ProbeIsPure := by
  intro s a h hrise
  obtain ⟨work, hrun⟩ := drive_probe_seqRef h
  refine ⟨_, hrun, fun b => targetAt_targetsAfter_read hrise, rfl, rfl, ?_⟩
  have hfail := busRead_refDraw s.params (targetAt s.targets a) a s.params.probeLen false
  show (if _ then _ else _) = _
  by_cases hpresent : ∃ g, targetAt s.targets a = some g ∧ g.present = true
  · rw [if_neg fun hf => hfail.1 hf hpresent]
    obtain ⟨g, hg, hp⟩ := hpresent
    simp only [hg, hp, if_true]
  · rw [if_pos (hfail.2 hpresent)]
    cases hg : targetAt s.targets a with
    | none => rfl
    | some g =>
      have hp : g.present = false := by
        rw [← Bool.not_eq_true]
        exact fun hp => hpresent ⟨g, hg, hp⟩
      simp only [hp, Bool.false_eq_true, if_false]

/-! ## Standby -/

/-- What the environment fixes for a transaction at a present target. -/
theorem refDraw_command {p : Params} {g : Target} {a : BusAddr} {c : Byte} {l : List Byte} {stop : Bool}
    (hp : g.present = true) (hc : (regOfCmd p c).isSome = true) :
    refDraw p (some g) (.write a (c :: l) stop) = .good 0#8 := by
  simp [refDraw, hp, hc]

theorem refDraw_read {p : Params} {g : Target} {a : BusAddr} {n : Fin 2} {stop : Bool} (hp : g.present = true) :
    refDraw p (some g) (.read a n stop) = .good g.readByte := by
  simp [refDraw, hp]

/-- The two command bytes differ, so the configuration register's selects it (R7, R222). -/
theorem regOfCmd_config {p : Params} (hne : p.cmdTemp ≠ p.cmdConfig) : regOfCmd p p.cmdConfig = some .config := by
  simp [regOfCmd, hne.symm]

/-- The draw that acknowledges everything takes a command byte and sends its byte. -/
theorem good_takesCommand (a : BusAddr) (c b : Byte) : (BusDraw.good b).takesCommand a c := rfl

theorem good_sendsByte (a : BusAddr) (b : Byte) : (BusDraw.good b).sendsByte a := rfl

theorem writeStarted_runningTx {a : BusAddr} {c v : Byte} {s : State} (h : WriteStarted a c v s) :
    s.runningTx = some (.write a [c, v] true) := by
  simp [State.runningTx, h.atWrite, h.writes, h.addr, h.command, h.value]

theorem readStarted_runningTx {a : BusAddr} {c : Byte} {s : State} (h : ReadStarted a c s) :
    s.runningTx = some (.write a [c] false) := by
  simp [State.runningTx, h.atWrite, h.reads, h.addr, h.command]

/-- SET_STANDBY with a present reference target as the environment: the controller is ready for READ_CONFIG, and the target
has seen the write. -/
theorem drive_setStandby_seqRef {a : BusAddr} {e : Bool} {g : Target} {s : State} (h : ReadyFor (.setStandby a e) s)
    (hne : s.params.cmdTemp ≠ s.params.cmdConfig) (hg : targetAt s.targets a = some g) (hp : g.present = true) :
    ∃ t, drive (.host (issueAccess (.setStandby a e)) :: .seqRef :: quietScript s.params) s = .next t ∧
      ReadyFor (.readConfig a) t ∧ t.params = s.params ∧
      t.targets = targetsAfter s.params (.write a [s.params.cmdConfig, if e then 0x80#8 else 0x00#8] true) s.targets := by
  have hi : WritesOnce s.params a (.setStandby a e) s.params.cmdConfig (if e then 0x80#8 else 0x00#8) :=
    .inr ⟨e, rfl, rfl, rfl⟩
  generalize hl : targetsAfter s.params (.write a [s.params.cmdConfig, if e then 0x80#8 else 0x00#8] true) s.targets = l
  have h' := readyFor_withTargets h l
  have hrun := drive_oneWrite (s := withTargets l s) (.good 0#8) hi h'
  rw [drive_cons_next (issue_started Instr.noConfusion h')] at hrun
  have htx := writeStarted_runningTx (writeStarted_of_writesOnce hi h)
  have hdraw : refDraw s.params (targetAt s.targets a)
      (.write a [s.params.cmdConfig, if e then 0x80#8 else 0x00#8] true) = .good 0#8 := by
    rw [hg]
    exact refDraw_command hp (by rw [regOfCmd_config hne]; rfl)
  refine ⟨_, Eq.trans ?_ hrun, ⟨h.notInReset, rfl, h.initDone, h.configured, rfl, h.addr⟩, rfl, rfl⟩
  rw [drive_cons_next (issue_started Instr.noConfusion h),
    drive_seqRef_cons (s := started (.setStandby a e) s) h.notInReset htx]
  rw [← hdraw, ← hl]
  rfl

/-- READ_CONFIG with a present reference target as the environment: the configuration byte it has after the command byte
has selected that register. -/
theorem drive_readConfig_seqRef {a : BusAddr} {g : Target} {s : State} (h : ReadyFor (.readConfig a) s)
    (hne : s.params.cmdTemp ≠ s.params.cmdConfig) (hrise : targetsRising s.targets = true)
    (hg : targetAt s.targets a = some g) (hp : g.present = true) :
    ∃ t, drive (.host (issueAccess (.readConfig a)) :: .seqRef :: .seqRef :: quietScript s.params) s = .next t ∧
      t.code = .ok ∧ t.done = true ∧ t.result = zext32 g.configByte := by
  have hreg := regOfCmd_config hne
  have hi : ReadsOnce s.params a (.readConfig a) s.params.cmdConfig := .inr ⟨rfl, rfl⟩
  have hstarted := readStarted_of_readsFirst hi.readsFirst h
  generalize hl₁ : targetsAfter s.params (.write a [s.params.cmdConfig] false) s.targets = l₁
  generalize hl₂ : targetsAfter s.params (.read a 1 true) l₁ = l₂
  have hg₁ : targetAt l₁ a = some { g with ptr := .config } := by
    rw [← hl₁, targetAt_targetsAfter hrise, Tx.addr, if_pos rfl, hg]
    simp [hp, Target.after, hreg]
  have hdraw₁ : refDraw s.params (targetAt s.targets a) (.write a [s.params.cmdConfig] false) = .good 0#8 := by
    rw [hg]
    exact refDraw_command hp (by rw [hreg]; rfl)
  have hdraw₂ : refDraw s.params (targetAt l₁ a) (.read a 1 true) = .good g.configByte := by
    rw [hg₁]
    exact refDraw_read hp
  have htake := good_takesCommand a s.params.cmdConfig 0#8
  have hsend := good_sendsByte a g.configByte
  have hwrite (l : List (BusAddr × Target)) :
      applyInput (answer (.good 0#8)) (withTargets l (started (.readConfig a) s)) =
        .next (afterCommandByte a s.params.cmdConfig (withTargets l (started (.readConfig a) s))) :=
    (applyInput_seq (s := withTargets l (started (.readConfig a) s)) h.notInReset).trans (seqStep_takesCommand
      (readStarted_of_readsFirst (s := withTargets l s) hi.readsFirst (readyFor_withTargets h l)) htake)
  have hread : drive (.seqRef :: quietScript s.params)
      (afterCommandByte a s.params.cmdConfig (withTargets l₁ (started (.readConfig a) s))) =
      drive (answer (.good g.configByte) :: quietScript s.params)
        (afterCommandByte a s.params.cmdConfig (withTargets l₂ (started (.readConfig a) s))) := by
    have htx : (afterCommandByte a s.params.cmdConfig (withTargets l₁ (started (.readConfig a) s))).runningTx =
        some (.read a 1 true) := by
      show some (Tx.read (started (.readConfig a) s).latch.addr 1 true) = _
      rw [hstarted.addr]
    rw [drive_seqRef_cons (s := afterCommandByte a s.params.cmdConfig (withTargets l₁ (started (.readConfig a) s)))
      h.notInReset htx, ← hdraw₂, ← hl₂]
    rfl
  have hrun := drive_oneRead (s := withTargets l₂ s) (.good 0#8) (.good g.configByte) hi (readyFor_withTargets h l₂)
  rw [readAccess_of_good htake hsend, drive_cons_next (issue_started Instr.noConfusion (readyFor_withTargets h l₂))] at hrun
  refine ⟨_, Eq.trans ?_ hrun, rfl, rfl, rfl⟩
  calc drive (.host (issueAccess (.readConfig a)) :: .seqRef :: .seqRef :: quietScript s.params) s
      = drive (.seqRef :: .seqRef :: quietScript s.params) (started (.readConfig a) s) :=
        drive_cons_next (issue_started Instr.noConfusion h)
    _ = drive (answer (.good 0#8) :: .seqRef :: quietScript s.params)
          (withTargets l₁ (started (.readConfig a) s)) := by
        rw [drive_seqRef_cons (s := started (.readConfig a) s) h.notInReset (readStarted_runningTx hstarted), ← hdraw₁,
          ← hl₁]
        rfl
    _ = drive (answer (.good g.configByte) :: quietScript s.params)
          (afterCommandByte a s.params.cmdConfig (withTargets l₂ (started (.readConfig a) s))) := by
        rw [drive_cons_next (hwrite l₁), hread]
    _ = drive (answer (.good 0#8) :: answer (.good g.configByte) :: quietScript s.params)
          (withTargets l₂ (started (.readConfig a) s)) := (drive_cons_next (hwrite l₂)).symm

/-- A configuration byte as the host reads it (R220, R224): SHDN, DATA_RDY outside standby, and zeros. -/
theorem configByte_bits (t : Target) :
    (zext32 t.configByte).getLsbD 7 = t.shdn ∧ (zext32 t.configByte).getLsbD 6 = (t.dataRdy && !t.shdn) ∧
      ∀ k < 6, (zext32 t.configByte).getLsbD k = false := by
  unfold Target.configByte
  cases t.shdn <;> cases t.dataRdy <;> decide

/-- Settles O59: the write leaves SHDN as EN says, and the read-back is the configuration byte. -/
theorem standbyReadBack : Obligations.StandbyReadBack := by
  intro s a e g h hne hrise hg hp
  obtain ⟨t, hset, hready, hparams, htargets⟩ := drive_setStandby_seqRef h hne hg hp
  have hg' : targetAt t.targets a =
      some { g with ptr := .config, shdn := e, dataRdy := g.dataRdy && !e } := by
    rw [htargets, targetAt_targetsAfter hrise, Tx.addr, if_pos rfl, hg]
    cases e <;> simp [hp, Target.after, regOfCmd_config hne]
  have hrise' : targetsRising t.targets = true := by
    rw [htargets]
    exact targetsAfter_rising _ _ hrise
  rw [← hparams] at hne
  obtain ⟨u, hget, hcode, hdone, hresult⟩ := drive_readConfig_seqRef hready hne hrise' hg' hp
  obtain ⟨hshdn, hrdy, hlow⟩ := configByte_bits { g with ptr := .config, shdn := e, dataRdy := g.dataRdy && !e }
  refine ⟨u, ?_, hcode, hdone, ?_, fun he => ?_, ?_⟩
  · rw [standbyReadBackScript, ← List.cons_append, ← List.cons_append, drive_append hset, ← hparams, hget]
  · rw [hresult, hshdn]
  · rw [hresult, hrdy, he]
    simp
  · rw [hresult]
    exact hlow

end Sys2Proof.Proofs
end

section
/-! SUPPORT. What one step can do, said once for the sequencer, for the host port and for every input, and the statements
of 10, 20, 40 and 41 that say what a step changes. -/

namespace Sys2Proof.Proofs

open Sys2Proof.Laws Sys2Proof.Machine

/-! ## Sequencer steps -/

/-- What no sequencer step writes (R146): CMD, REJECTED, OFFSET, the latches, and all that is not the controller's. -/
structure SeqKept (s t : State) : Prop where
  cmd : t.cmd = s.cmd
  rejected : t.rejected = s.rejected
  offset : t.offset = s.offset
  latch : t.latch = s.latch
  inReset : t.inReset = s.inReset
  params : t.params = s.params
  targets : t.targets = s.targets
  inputs : t.inputs = s.inputs
  hostRdata : t.hostRdata = s.hostRdata

/-- PostAccess at the end of QUIESCE, from the state of the step (R148). -/
theorem quietEnd_cases {s t : State} (h : postAccess s.logQuiet = .next t) :
    (∃ c r b, t = s.logQuiet.complete c r b) ∨
      (s.latch.op = opBits .readTemp ∧ s.work.stage = .config ∧ s.work.accOk = true ∧
        t = { s.logQuiet with seq := .check }) := postAccess_cases h

theorem seqStep_kept {d : Option BusDraw} {s t : State} (h : seqStep d s = .next t) : SeqKept s t := by
  cases seqStep_cases h with
  | rests ht hs => subst ht; constructor <;> rfl
  | configures hs ht => subst ht; constructor <;> rfl
  | counts hs hq ht => subst ht; constructor <;> rfl
  | finishes hs hq ht => rcases quietEnd_cases ht with ⟨c, r, b, rfl⟩ | ⟨_, _, _, rfl⟩ <;> constructor <;> rfl
  | checks hs ht =>
    subst ht
    rcases checkReady_cases s with ⟨_, hc⟩ | ⟨_, hc⟩ <;> rw [hc] <;> constructor <;> rfl
  | ends x hd ht => cases ht <;> subst_vars <;> constructor <;> rfl

/-- The outcome of the last command (R41, R42, R46). -/
structure SameOutcome (s t : State) : Prop where
  result : t.result = s.result
  code : t.code = s.code
  subop : t.subop = s.subop

/-- A sequencer step completes the running command, or keeps the outcome and DONE and does not go to IDLE (R147). -/
theorem seqStep_outcome {d : Option BusDraw} {s t : State} (h : seqStep d s = .next t) :
    (t.done = true ∧ t.seq = .idle) ∨
      (SameOutcome s t ∧ t.done = s.done ∧ (t.seq = .idle ↔ s.seq = .idle)) := by
  cases seqStep_cases h with
  | rests ht hs => subst ht; exact .inr ⟨⟨rfl, rfl, rfl⟩, rfl, Iff.rfl⟩
  | configures hs ht => subst ht; exact .inl ⟨rfl, rfl⟩
  | counts hs hq ht => subst ht; exact .inr ⟨⟨rfl, rfl, rfl⟩, rfl, Iff.rfl⟩
  | finishes hs hq ht =>
    rcases quietEnd_cases ht with ⟨c, r, b, rfl⟩ | ⟨_, _, _, rfl⟩
    · exact .inl ⟨rfl, rfl⟩
    · exact .inr ⟨⟨rfl, rfl, rfl⟩, rfl, by simp [hs]⟩
  | checks hs ht =>
    subst ht
    rcases checkReady_cases s with ⟨_, hc⟩ | ⟨_, hc⟩ <;> rw [hc]
    · exact .inl ⟨rfl, rfl⟩
    · exact .inr ⟨⟨rfl, rfl, rfl⟩, rfl, by simp [hs]⟩
  | ends x hd ht => cases ht <;> subst_vars <;> exact .inr ⟨⟨rfl, rfl, rfl⟩, rfl, by simp [*]⟩

/-- The bus configuration is written in CFG only (R190, R191). -/
theorem seqStep_busCfg {d : Option BusDraw} {s t : State} (h : seqStep d s = .next t) :
    (s.seq = .cfg ∧ t = finishInit s) ∨
      (t.initDone = s.initDone ∧ t.busClk = s.busClk ∧ t.busPullup = s.busPullup) := by
  cases seqStep_cases h with
  | rests ht hs => subst ht; exact .inr ⟨rfl, rfl, rfl⟩
  | configures hs ht => exact .inl ⟨hs, ht⟩
  | counts hs hq ht => subst ht; exact .inr ⟨rfl, rfl, rfl⟩
  | finishes hs hq ht => rcases quietEnd_cases ht with ⟨c, r, b, rfl⟩ | ⟨_, _, _, rfl⟩ <;> exact .inr ⟨rfl, rfl, rfl⟩
  | checks hs ht =>
    subst ht
    rcases checkReady_cases s with ⟨_, hc⟩ | ⟨_, hc⟩ <;> rw [hc] <;> exact .inr ⟨rfl, rfl, rfl⟩
  | ends x hd ht => cases ht <;> subst_vars <;> exact .inr ⟨rfl, rfl, rfl⟩

/-- A transaction ends in one of the transaction states. -/
theorem txEnd_inTransaction {x : BusDraw} {s t : State} (h : TxEnd x s t) : s.seq.inTransaction = true := by
  cases h <;> simp [*, Seq.inTransaction]

/-- A sequencer step appends traffic in a transaction state, an interval at the end of QUIESCE, and nothing else (R133,
R154). -/
theorem seqStep_wire {d : Option BusDraw} {s t : State} (h : seqStep d s = .next t) :
    ∃ w, t.wire = s.wire ++ w ∧ (w = [] ∨ s.seq.inTransaction = true ∨ (s.seq = .quiesce ∧ w = [.quiet])) := by
  cases seqStep_cases h with
  | rests ht hs => subst ht; exact ⟨[], (List.append_nil _).symm, .inl rfl⟩
  | configures hs ht => subst ht; exact ⟨[], (List.append_nil _).symm, .inl rfl⟩
  | counts hs hq ht => subst ht; exact ⟨[], (List.append_nil _).symm, .inl rfl⟩
  | finishes hs hq ht =>
    rcases quietEnd_cases ht with ⟨c, r, b, rfl⟩ | ⟨_, _, _, rfl⟩ <;> exact ⟨[.quiet], rfl, .inr (.inr ⟨hs, rfl⟩)⟩
  | checks hs ht =>
    subst ht
    rcases checkReady_cases s with ⟨_, hc⟩ | ⟨_, hc⟩ <;> rw [hc] <;> exact ⟨[], (List.append_nil _).symm, .inl rfl⟩
  | ends x hd ht =>
    have htx := txEnd_inTransaction ht
    cases ht <;> subst_vars <;> exact ⟨_, rfl, .inr (.inl htx)⟩

/-! ## Host accesses -/

/-- What a host access that is taken can do (R78, R79, R140). -/
inductive HostMove (a : HostAccess) (s t : State) : Prop where
  | reads (off : HostOff) (ht : t = { s with hostRdata := s.hostRead off })
  | clears (off : HostOff) (v : Word) (ha : a = .write .word off v) (hoff : off.toNat = 0x04) (ht : t = s.clearStatus v)
  | stores (off : HostOff) (v : Word) (ha : a = .write .word off v) (hoff : off.toNat = 0x08)
      (ht : t = { s with offset := v })
  | ignores (ht : t = s)
  | rejects (hs : s.seq ≠ .idle) (ht : t = s.reject)
  | accepts (w : Word) (hs : s.seq = .idle) (hw : cmdWrite w s = .next t)

theorem hostStep_move {a : HostAccess} {s t : State} (h : hostStep a s = .next t) : HostMove a s t := by
  obtain ⟨_, ⟨off, _, _, ht⟩ | ⟨off, v, ha, hw, hstep⟩⟩ := hostStep_cases h
  · exact .reads off ht
  · rw [hostWrite_of_aligned v s ((wholeWord_iff _ _).1 hw).2] at hstep
    split_ifs at hstep with hcmd hstatus hoffset
    · by_cases hs : s.seq = .idle
      · exact .accepts v hs hstep
      · rw [cmdWrite_busy v s hs] at hstep
        exact .rejects hs (Host.Outcome.next.inj hstep).symm
    · exact .clears off v ha hstatus (Host.Outcome.next.inj hstep).symm
    · exact .stores off v ha hoffset (Host.Outcome.next.inj hstep).symm
    · exact .ignores (Host.Outcome.next.inj hstep).symm

/-- What an accepted word does: it completes in the same step, or the sequencer starts on it (R142, R143). -/
theorem cmdWrite_accepts {w : Word} {s t : State} (hs : s.seq = .idle) (h : cmdWrite w s = .next t) :
    (∃ c r, t = (s.accept w).complete c r false) ∨ (∃ x k, x ≠ .idle ∧ t = { s.accept w with seq := x, work := k }) := by
  rcases cmdWrite_idle_cases w hs with ⟨c, r, hc⟩ | ⟨x, k, hx, hc⟩
  · exact .inl ⟨c, r, Host.Outcome.next.inj (h.symm.trans hc)⟩
  · exact .inr ⟨x, k, hx, Host.Outcome.next.inj (h.symm.trans hc)⟩

/-- While a command runs, a host access touches nothing that the sequencer reads or writes but DONE, which it can only
clear (R87, R153). -/
theorem hostStep_busy {a : HostAccess} {s t : State} (hs : s.seq ≠ .idle) (h : hostStep a s = .next t) :
    ∃ r o v, t = { s with done := t.done, rejected := r, offset := o, hostRdata := v } ∧
      (s.done = false → t.done = false) := by
  cases hostStep_move h with
  | reads off ht => subst ht; exact ⟨_, _, _, rfl, id⟩
  | clears off v ha hoff ht => subst ht; exact ⟨_, _, _, rfl, fun hd => by simp [hd]⟩
  | stores off v ha hoff ht => subst ht; exact ⟨_, _, _, rfl, id⟩
  | ignores ht => subst ht; exact ⟨_, _, _, rfl, id⟩
  | rejects _ ht => subst ht; exact ⟨_, _, _, rfl, id⟩
  | accepts w hidle _ => exact absurd hidle hs

/-! ## Inputs -/

/-- `s` with another reset level and other reference targets. -/
def rebase (r : Bool) (l : List (BusAddr × Target)) (s : State) : State := { s with inReset := r, targets := l }

/-- What an input that is taken can do (R30, R85, R92, R240): reset; a change of the environment alone; one step of the host
or of the sequencer; or, in one cycle, the host's and then the sequencer's. -/
inductive InputMove (x : Input) (s t : State) : Prop where
  | resets (hx : x.assertsReset = true) (ht : t = s.driveReset true)
  | rebases (r : Bool) (l : List (BusAddr × Target)) (ht : t = rebase r l s)
  | host (a : HostAccess) (r : Bool) (hx : x.access = some a) (ht : hostStep a (rebase r s.targets s) = .next t)
  | seq (d : Option BusDraw) (r : Bool) (l : List (BusAddr × Target)) (ht : seqStep d (rebase r l s) = .next t)
  | cycle (a : HostAccess) (d : Option BusDraw) (u : State) (hx : x.access = some a) (hs : s.seq ≠ .idle)
      (hu : hostStep a (rebase false s.targets s) = .next u) (ht : seqStep d u = .next t)

theorem refStep_move {s t : State} (h : refStep s = .next t) : ∃ d l, seqStep d (rebase s.inReset l s) = .next t := by
  obtain ⟨d, l, href⟩ := referenceTargetIsADraw s
  exact ⟨d, l, href ▸ h⟩

theorem applyInput_move {x : Input} {s t : State} (h : applyInput x s = .next t) : InputMove x s t := by
  cases x with
  | host a => exact .host a s.inReset rfl h
  | seq d =>
    simp only [applyInput, seqInput] at h
    split at h
    · exact .rebases s.inReset s.targets (Host.Outcome.next.inj h).symm
    · exact .seq d s.inReset s.targets h
  | seqRef =>
    simp only [applyInput, refInput] at h
    split at h
    · exact .rebases s.inReset s.targets (Host.Outcome.next.inj h).symm
    · obtain ⟨d, l, hstep⟩ := refStep_move h
      exact .seq d s.inReset l hstep
  | cycle r a d =>
    cases r with
    | true => exact .resets rfl (Host.Outcome.next.inj h).symm
    | false =>
      cases a with
      | none => exact .seq d false s.targets h
      | some a =>
        have hcycle : cycleInput false (some a) d s = .next t := h
        simp only [cycleInput, Bool.false_eq_true, if_false] at hcycle
        cases hu : hostStep a (s.driveReset false) with
        | next u =>
          simp only [hu] at hcycle
          split at hcycle
          · next hbusy => exact .cycle a d u rfl ((busy_iff s).1 hbusy) hu hcycle
          · exact .host a false rfl (hu.trans hcycle)
        | fault r => simp only [hu] at hcycle; cases hcycle
        | refused r => simp only [hu] at hcycle; cases hcycle
  | rst b =>
    cases b with
    | true => exact .resets rfl (Host.Outcome.next.inj h).symm
    | false => exact .rebases false s.targets (Host.Outcome.next.inj h).symm
  | convert a b =>
    rw [← Host.Outcome.next.inj h, State.convertAt]
    cases targetAt s.targets a with
    | none => exact .rebases s.inReset s.targets rfl
    | some g => exact .rebases s.inReset _ rfl
  | powerUp a b => exact .rebases s.inReset _ (Host.Outcome.next.inj h).symm

/-- What a step can do: with no input waiting, the sequencer's step without an answer; else the first input's. -/
theorem step_move {s t : State} (h : step s = .next t) :
    (s.inputs = [] ∧ InputMove (.seq none) s t) ∨
      (∃ x rest u, s.inputs = x :: rest ∧ InputMove x s u ∧ t = withInputs rest u) := by
  rcases step_cases h with ⟨hin, hstep⟩ | ⟨x, rest, u, hin, hu, ht⟩
  · exact .inl ⟨hin, applyInput_move hstep⟩
  · exact .inr ⟨x, rest, u, hin, applyInput_move hu, ht⟩

/-! ## What a host access leaves unchanged -/

/-- A host access puts nothing on the wire and does not touch the bus configuration (R79, R142). -/
theorem hostStep_bus {a : HostAccess} {s t : State} (h : hostStep a s = .next t) :
    t.wire = s.wire ∧ t.initDone = s.initDone ∧ t.busClk = s.busClk ∧ t.busPullup = s.busPullup := by
  cases hostStep_move h with
  | accepts w hs hw => rcases cmdWrite_accepts hs hw with ⟨c, r, rfl⟩ | ⟨x, k, _, rfl⟩ <;> exact ⟨rfl, rfl, rfl, rfl⟩
  | _ => subst_vars; exact ⟨rfl, rfl, rfl, rfl⟩

/-- A host access keeps the outcome, or completes a command in its accepting step (R143, R147). -/
theorem hostStep_outcome {a : HostAccess} {s t : State} (h : hostStep a s = .next t) :
    SameOutcome s t ∨ (s.seq = .idle ∧ t.done = true ∧ t.seq = .idle) := by
  cases hostStep_move h with
  | accepts w hs hw =>
    rcases cmdWrite_accepts hs hw with ⟨c, r, rfl⟩ | ⟨x, k, _, rfl⟩
    · exact .inr ⟨hs, rfl, rfl⟩
    · exact .inl ⟨rfl, rfl, rfl⟩
  | _ => subst_vars; exact .inl ⟨rfl, rfl, rfl⟩

/-- REJECTED is cleared by a STATUS write with bit 3 alone (R40, R79). -/
theorem hostStep_rejected {a : HostAccess} {s t : State} (h : hostStep a s = .next t) (hr : s.rejected = true) :
    t.rejected = true ∨ ∃ off v, a = .write .word off v ∧ off.toNat = 0x04 ∧ v.getLsbD 3 = true := by
  cases hostStep_move h with
  | clears off v ha hoff ht =>
    subst ht
    cases hv : v.getLsbD 3 with
    | true => exact .inr ⟨off, v, ha, hoff, hv⟩
    | false => exact .inl (by rw [clearStatus_rejected, hr, hv]; rfl)
  | accepts w hs hw => rcases cmdWrite_accepts hs hw with ⟨c, r, rfl⟩ | ⟨x, k, _, rfl⟩ <;> exact .inl hr
  | rejects _ ht => subst ht; exact .inl rfl
  | _ => subst_vars; exact .inl hr

/-- OFFSET is stored by a write to it alone (R45, R79). -/
theorem hostStep_offset {a : HostAccess} {s t : State} (h : hostStep a s = .next t) :
    t.offset = s.offset ∨ ∃ off, a = .write .word off t.offset ∧ off.toNat = 0x08 := by
  cases hostStep_move h with
  | stores off v ha hoff ht => subst ht; exact .inr ⟨off, ha, hoff⟩
  | accepts w hs hw => rcases cmdWrite_accepts hs hw with ⟨c, r, rfl⟩ | ⟨x, k, _, rfl⟩ <;> exact .inl rfl
  | _ => subst_vars; exact .inl rfl

/-! ## What a step changes -/

/-- The wire grows in a sequencer step alone, the one of a cycle included. -/
theorem inputMove_wire {x : Input} {s t : State} (h : InputMove x s t) :
    ∃ w, t.wire = s.wire ++ w ∧ (w = [] ∨ s.seq.inTransaction = true ∨ (s.seq = .quiesce ∧ w = [.quiet])) := by
  cases h with
  | resets hx ht => subst ht; exact ⟨[], (List.append_nil _).symm, .inl rfl⟩
  | rebases r l ht => subst ht; exact ⟨[], (List.append_nil _).symm, .inl rfl⟩
  | host a r hx ht => exact ⟨[], (hostStep_bus ht).1.trans (List.append_nil _).symm, .inl rfl⟩
  | seq d r l ht => exact seqStep_wire (s := rebase r l s) ht
  | cycle a d u hx hs hu ht =>
    obtain ⟨r, o, v, hframe, _⟩ := hostStep_busy (s := rebase false s.targets s) hs hu
    have hwire := seqStep_wire ht
    rw [hframe] at hwire
    exact hwire

/-- Settles O35: whatever the input is, its sequencer step is the one that extends the wire. -/
theorem trafficOnlyInTransactions : Obligations.TrafficOnlyInTransactions := by
  intro s t h
  rcases step_move h with ⟨_, hmove⟩ | ⟨x, rest, u, _, hmove, rfl⟩
  · exact inputMove_wire hmove
  · exact inputMove_wire (t := u) hmove

/-- Unless reset is asserted, the outcome is kept or published with the completion of a command. -/
theorem inputMove_outcome {x : Input} {s t : State} (h : InputMove x s t) :
    x.assertsReset = true ∨ SameOutcome s t ∨ (t.done = true ∧ t.seq = .idle) := by
  cases h with
  | resets hx ht => exact .inl hx
  | rebases r l ht => subst ht; exact .inr (.inl ⟨rfl, rfl, rfl⟩)
  | host a r hx ht => exact .inr ((hostStep_outcome ht).imp (fun ⟨h₁, h₂, h₃⟩ => ⟨h₁, h₂, h₃⟩) And.right)
  | seq d r l ht =>
    rcases seqStep_outcome ht with hdone | ⟨⟨h₁, h₂, h₃⟩, _⟩
    · exact .inr (.inr hdone)
    · exact .inr (.inl ⟨h₁, h₂, h₃⟩)
  | cycle a d u hx hs hu ht =>
    rcases seqStep_outcome ht with hdone | ⟨⟨h₁, h₂, h₃⟩, _⟩
    · exact .inr (.inr hdone)
    · rcases hostStep_outcome hu with ⟨g₁, g₂, g₃⟩ | ⟨hidle, _⟩
      · exact .inr (.inl ⟨h₁.trans g₁, h₂.trans g₂, h₃.trans g₃⟩)
      · exact absurd hidle hs

/-- Settles O50: a change of the outcome is a completion or a reset. -/
theorem outcomePublishedAtomically : Obligations.OutcomePublishedAtomically := by
  intro s t h hchange
  have hsame (u : State) (hu : SameOutcome s u) : ¬ (u.result ≠ s.result ∨ u.code ≠ s.code ∨ u.subop ≠ s.subop) := by
    rintro (hr | hc | hb)
    exacts [hr hu.result, hc hu.code, hb hu.subop]
  rcases step_move h with ⟨_, hmove⟩ | ⟨x, rest, u, hin, hmove, rfl⟩
  · rcases inputMove_outcome hmove with hx | hkeep | ⟨hdone, hidle⟩
    · cases hx
    · exact absurd hchange (hsame t hkeep)
    · exact .inl ⟨hdone, (busy_eq_false_iff t).2 hidle⟩
  · rcases inputMove_outcome hmove with hx | hkeep | ⟨hdone, hidle⟩
    · exact .inr ⟨x, rest, hin, hx⟩
    · exact absurd hchange (hsame u hkeep)
    · exact .inl ⟨hdone, (busy_eq_false_iff u).2 hidle⟩

/-- Once INIT is set, the bus configuration is kept unless reset is asserted: CFG is left behind (R39, R190). -/
theorem inputMove_busCfg {x : Input} {s t : State} (h : InputMove x s t) (hcfg : s.seq ≠ .cfg) :
    x.assertsReset = true ∨ (t.initDone = s.initDone ∧ t.busClk = s.busClk ∧ t.busPullup = s.busPullup) := by
  cases h with
  | resets hx ht => exact .inl hx
  | rebases r l ht => subst ht; exact .inr ⟨rfl, rfl, rfl⟩
  | host a r hx ht => exact .inr (hostStep_bus ht).2
  | seq d r l ht => exact (seqStep_busCfg ht).imp (fun ⟨hs, _⟩ => absurd hs hcfg) id
  | cycle a d u hx hs hu ht =>
    obtain ⟨r, o, v, hframe, _⟩ := hostStep_busy (s := rebase false s.targets s) hs hu
    rcases seqStep_busCfg ht with ⟨hseq, _⟩ | hkeep
    · rw [hframe] at hseq
      exact absurd hseq hcfg
    · rw [hframe] at hkeep
      exact .inr hkeep

/-- Settles O51: INIT is clear in CFG, so with INIT set no step configures the bus. -/
theorem initStaysUntilReset : Obligations.InitStaysUntilReset := by
  intro s t hcoh h hinit
  have hcfg : s.seq ≠ .cfg := by
    intro hseq
    have hcommand := hcoh.command
    simp only [State.CommandCoherent, hseq, hinit] at hcommand
    cases hcommand.2
  rcases step_move h with ⟨_, hmove⟩ | ⟨x, rest, u, hin, hmove, rfl⟩
  · rcases inputMove_busCfg hmove hcfg with hx | ⟨hi, hbus⟩
    · cases hx
    · exact .inl ⟨hi.trans hinit, hbus⟩
  · rcases inputMove_busCfg hmove hcfg with hx | ⟨hi, hbus⟩
    · exact .inr ⟨x, rest, hin, hx⟩
    · exact .inl ⟨hi.trans hinit, hbus⟩

/-- REJECTED stays set but for reset and the STATUS write that clears it. -/
theorem inputMove_rejected {x : Input} {s t : State} (h : InputMove x s t) (hr : s.rejected = true) :
    t.rejected = true ∨ x.assertsReset = true ∨
      ∃ off v, x.access = some (.write .word off v) ∧ off.toNat = 0x04 ∧ v.getLsbD 3 = true := by
  cases h with
  | resets hx ht => exact .inr (.inl hx)
  | rebases r l ht => subst ht; exact .inl hr
  | host a r hx ht =>
    rcases hostStep_rejected ht hr with hkeep | ⟨off, v, rfl, hv⟩
    · exact .inl hkeep
    · exact .inr (.inr ⟨off, v, hx, hv⟩)
  | seq d r l ht => exact .inl ((seqStep_kept ht).rejected.trans hr)
  | cycle a d u hx hs hu ht =>
    rcases hostStep_rejected hu hr with hkeep | ⟨off, v, rfl, hv⟩
    · exact .inl ((seqStep_kept ht).rejected.trans hkeep)
    · exact .inr (.inr ⟨off, v, hx, hv⟩)

/-- Settles O52: with no input waiting only the sequencer steps, which does not write REJECTED. -/
theorem rejectedIsSticky : Obligations.RejectedIsSticky := by
  intro s t h hr hclear
  rcases step_move h with ⟨_, hmove⟩ | ⟨x, rest, u, hin, hmove, rfl⟩
  · rcases inputMove_rejected hmove hr with hkeep | hx | ⟨off, v, hx, _⟩
    · rw [hclear] at hkeep; cases hkeep
    · cases hx
    · cases hx
  · rcases inputMove_rejected hmove hr with hkeep | hx
    · rw [show u.rejected = false from hclear] at hkeep; cases hkeep
    · exact ⟨x, rest, hin, hx⟩

/-- OFFSET keeps its value but for reset and the write that stores a new one. -/
theorem inputMove_offset {x : Input} {s t : State} (h : InputMove x s t) :
    t.offset = s.offset ∨ x.assertsReset = true ∨
      ∃ off, x.access = some (.write .word off t.offset) ∧ off.toNat = 0x08 := by
  cases h with
  | resets hx ht => exact .inr (.inl hx)
  | rebases r l ht => subst ht; exact .inl rfl
  | host a r hx ht =>
    rcases hostStep_offset ht with hkeep | ⟨off, ha, hoff⟩
    · exact .inl hkeep
    · exact .inr (.inr ⟨off, ha ▸ hx, hoff⟩)
  | seq d r l ht => exact .inl (seqStep_kept ht).offset
  | cycle a d u hx hs hu ht =>
    have hkept := (seqStep_kept ht).offset
    rcases hostStep_offset hu with hkeep | ⟨off, ha, hoff⟩
    · exact .inl (hkept.trans hkeep)
    · exact .inr (.inr ⟨off, by rw [hkept, ← ha, hx], hoff⟩)

/-- Settles O53: with no input waiting only the sequencer steps, which does not write OFFSET. -/
theorem offsetWrittenByHostOnly : Obligations.OffsetWrittenByHostOnly := by
  intro s t h hchange
  rcases step_move h with ⟨_, hmove⟩ | ⟨x, rest, u, hin, hmove, rfl⟩
  · rcases inputMove_offset hmove with hkeep | hx | ⟨off, hx, _⟩
    · exact absurd hkeep hchange
    · cases hx
    · cases hx
  · rcases inputMove_offset hmove with hkeep | hx
    · exact absurd hkeep hchange
    · exact ⟨x, rest, hin, hx⟩

/-! ## The end of a transaction -/

/-- Settles O33: a held command byte that is taken is the one end that does not enter QUIESCE, and every other releases the
bus. -/
theorem transactionEndsHeldOrQuiet : Obligations.TransactionEndsHeldOrQuiet := by
  intro s t d htx h
  cases seqStep_cases h with
  | ends x hd hend =>
    obtain rfl : d = x := Option.some.inj hd
    cases hend with
    | probe hs ht =>
      subst ht
      exact ⟨fun ⟨hw, _⟩ => by simp [hs] at hw, fun _ => ⟨rfl, (busRead_cases ..).1, rfl⟩⟩
    | heldTaken hs hk ho ht =>
      subst ht
      have hheld := congrArg TxResult.held (busWrite_of_takesCommand ho)
      exact ⟨fun _ => ⟨rfl, hheld, rfl⟩, fun hnot => absurd ⟨hs, hk, ho⟩ hnot⟩
    | heldFailed hs hk ho ht =>
      subst ht
      have hnot : ¬ d.takesCommand s.latch.addr s.work.accCmdb := fun htake => by
        rw [BusDraw.takesCommand, ho] at htake
        cases htake
      refine ⟨fun ⟨_, _, htake⟩ => absurd htake hnot, fun _ => ⟨rfl, ?_, rfl⟩⟩
      rcases busWrite_cases s.latch.addr [s.work.accCmdb] false d with ⟨hcount, _⟩ | ⟨_, hheld⟩
      · exact absurd hcount hnot
      · exact hheld
    | written hs hk ht =>
      subst ht
      refine ⟨fun ⟨_, hr, _⟩ => by simp [hk] at hr, fun _ => ⟨rfl, ?_, rfl⟩⟩
      rcases busWrite_cases s.latch.addr [s.work.accCmdb, s.work.accData] true d with ⟨_, hheld⟩ | ⟨_, hheld⟩ <;>
        exact hheld
    | byteRead hs ho ht =>
      subst ht
      exact ⟨fun ⟨hw, _⟩ => by simp [hs] at hw, fun _ => ⟨rfl, (busRead_cases ..).1, rfl⟩⟩
    | readFailed hs ho ht =>
      subst ht
      exact ⟨fun ⟨hw, _⟩ => by simp [hs] at hw, fun _ => ⟨rfl, (busRead_cases ..).1, rfl⟩⟩
  | rests ht hs =>
    rcases hs with hs | ⟨hd, _⟩
    · simp [hs, Seq.inTransaction] at htx
    · cases hd
  | configures hs ht => simp [hs, Seq.inTransaction] at htx
  | counts hs hq ht => simp [hs, Seq.inTransaction] at htx
  | finishes hs hq ht => simp [hs, Seq.inTransaction] at htx
  | checks hs ht => simp [hs, Seq.inTransaction] at htx

/-- Settles O32: QCNT counts down to 0, one step each. -/
theorem quiescenceCountsDown : Obligations.QuiescenceCountsDown := by
  intro s hrst hseq
  generalize hn : s.qcnt = n
  induction n generalizing s with
  | zero =>
    rw [List.replicate_zero, drive_nil, ← hn]
  | succ n ih =>
    have hstep : applyInput (.seq none) s = .next { s with qcnt := n } := by
      rw [applyInput_seq hrst]
      simp [seqStep, hseq, quiesceStep, hn]
    rw [List.replicate_succ, drive_cons_next hstep]
    exact ih { s with qcnt := n } hrst hseq rfl

end Sys2Proof.Proofs
end

section
/-! SUPPORT. The sequencer's step does not read what a host access writes while a command runs; refused steps; and the
statements of 20, 40, 41 and 70 about the host beside a running command. -/

namespace Sys2Proof.Proofs

open Sys2Proof.Laws Sys2Proof.Machine

/-! ## The host's part plays no part in a sequencer step -/

/-- `s` with other values in what the host writes while a command runs: REJECTED, OFFSET and its read port. -/
def hostSide (r : Bool) (o v : Word) (s : State) : State := { s with rejected := r, offset := o, hostRdata := v }

theorem finishOf_hostSide (op : Opcode) (r : Bool) (o v : Word) (s : State) :
    finishOf op (hostSide r o v s) = hostSide r o v (finishOf op s) := by
  cases op with
  | init => rfl
  | probe => rfl
  | readTemp =>
    show finishReadTemp _ = hostSide r o v (finishReadTemp s)
    unfold finishReadTemp
    rw [show (hostSide r o v s).work = s.work from rfl]
    cases s.work.stage <;> cases s.work.accOk <;> rfl
  | _ =>
    refine Eq.trans ?_ (apply_ite (hostSide r o v) (s.work.accOk = true) _ _).symm
    rfl

theorem postAccess_hostSide (r : Bool) (o v : Word) (s : State) :
    postAccess (hostSide r o v s) = mapNext (hostSide r o v) (postAccess s) := by
  unfold postAccess
  rw [show (hostSide r o v s).latch = s.latch from rfl]
  cases opOfBits s.latch.op with
  | none => rfl
  | some op =>
    have hfinish := finishOf_hostSide op r o v s
    cases op with
    | init => rfl
    | _ => exact congrArg Host.Outcome.next hfinish

theorem checkReady_hostSide (r : Bool) (o v : Word) (s : State) :
    checkReady (hostSide r o v s) = hostSide r o v (checkReady s) := by
  refine Eq.trans ?_ (apply_ite (hostSide r o v) (dataReady s.work.rxb = true) _ _).symm
  rfl

/-- A transaction's end under a draw. -/
theorem txStep_hostSide (x : BusDraw) (r : Bool) (o v : Word) (s : State) :
    probeRdStep x (hostSide r o v s) = mapNext (hostSide r o v) (probeRdStep x s) ∧
    wrTxStep x (hostSide r o v s) = mapNext (hostSide r o v) (wrTxStep x s) ∧
    rdTxStep x (hostSide r o v s) = mapNext (hostSide r o v) (rdTxStep x s) := by
  refine ⟨mapNext_ite Iff.rfl rfl rfl, ?_, mapNext_ite Iff.rfl ?_ rfl⟩
  · unfold wrTxStep
    rw [show (hostSide r o v s).work = s.work from rfl]
    cases s.work.accKind with
    | read => exact mapNext_ite Iff.rfl (mapNext_ite Iff.rfl rfl rfl) rfl
    | write => exact mapNext_ite Iff.rfl rfl rfl
  · simp only [show (hostSide r o v s).latch = s.latch from rfl, show (hostSide r o v s).busHeld = s.busHeld from rfl]
    rcases (busRead_cases s.latch.addr 1 true s.busHeld x).2 with ho | ho <;> simp only [ho] <;> rfl

/-- The sequencer's step commutes with the host's changes (R87, R153). -/
theorem seqStep_hostSide (d : Option BusDraw) (r : Bool) (o v : Word) (s : State) :
    seqStep d (hostSide r o v s) = mapNext (hostSide r o v) (seqStep d s) := by
  unfold seqStep
  rw [show (hostSide r o v s).seq = s.seq from rfl]
  cases s.seq with
  | idle => rfl
  | cfg => rfl
  | quiesce => exact mapNext_ite Iff.rfl (postAccess_hostSide r o v s.logQuiet) rfl
  | check => exact congrArg Host.Outcome.next (checkReady_hostSide r o v s)
  | probeRd =>
    cases d with
    | none => rfl
    | some x => exact (txStep_hostSide x r o v s).1
  | wrTx =>
    cases d with
    | none => rfl
    | some x => exact (txStep_hostSide x r o v s).2.1
  | rdTx =>
    cases d with
    | none => rfl
    | some x => exact (txStep_hostSide x r o v s).2.2

/-- A host access beside a running command changes the host's part alone. -/
theorem hostStep_running {a : HostAccess} {s t : State} (hs : s.seq ≠ .idle) (hd : s.done = false)
    (h : hostStep a s = .next t) : t = hostSide t.rejected t.offset t.hostRdata s := by
  obtain ⟨r, o, v, hframe, hdone⟩ := hostStep_busy hs h
  rw [hdone hd, ← hd] at hframe
  rw [hframe]
  rfl

/-- Settles O49: the access changes the host's part alone, and with it the sequencer's step is the same. -/
theorem hostAccessesDoNotDisturb : Obligations.HostAccessesDoNotDisturb := by
  intro s h t a d hs hd hhost hseq
  have hstep : seqStep d h = .next (hostSide h.rejected h.offset h.hostRdata t) := by
    rw [hostStep_running hs hd hhost, seqStep_hostSide, hseq]
    rfl
  exact ⟨_, hstep, rfl, rfl, rfl, rfl, rfl, rfl, rfl, rfl, rfl, rfl, rfl, rfl, rfl, rfl⟩

/-! ## One clock cycle -/

/-- The host's step and the sequencer's in one cycle while a command runs (R92). -/
theorem cycleInput_running {a : HostAccess} {d : Option BusDraw} {s u t : State} (hs : s.seq ≠ .idle)
    (hd : s.done = false) (hhost : hostStep a { s with inReset := false } = .next u)
    (hseq : seqStep d { s with inReset := false } = .next t) :
    cycleInput false (some a) d s = .next (hostSide u.rejected u.offset u.hostRdata t) := by
  have hbusy : s.busy = true := (busy_iff s).2 hs
  have hu := hostStep_running (s := { s with inReset := false }) hs hd hhost
  have hcycle : cycleInput false (some a) d s = seqStep d u := by
    have hreset : s.driveReset false = { s with inReset := false } := rfl
    simp only [cycleInput, Bool.false_eq_true, if_false, hreset, hhost, hbusy, if_true]
  rw [hcycle, hu, seqStep_hostSide, hseq]
  rfl

/-- Settles O56: the host access of the cycle changes the host's part alone, so `Complete` has the last word on DONE; and
reset is taken before either. -/
theorem sameCyclePriorities : Obligations.SameCyclePriorities := by
  intro s t v d a
  refine ⟨fun hs hseq hdone hidle hd => ⟨?_, ?_⟩, rfl⟩
  · have hhost : hostStep (.write .word 0x04#5 v) { s with inReset := false } =
        .next (({ s with inReset := false } : State).clearStatus v) := rfl
    exact ⟨_, cycleInput_running hs hd hhost hseq, hdone, hidle⟩
  · have hhost : hostStep (.write .word 0x00#5 v) { s with inReset := false } =
        .next ({ s with inReset := false } : State).reject := cmdWrite_busy v _ hs
    exact ⟨_, cycleInput_running hs hd hhost hseq, rfl, hdone, (seqStep_kept hseq).cmd, rfl⟩

/-! ## Refused steps -/

theorem cmdWrite_next (w : Word) (s : State) : ∃ t, cmdWrite w s = .next t := by
  rw [cmdWrite_eq]
  cases decode w <;> exact ⟨_, rfl⟩

theorem hostWrite_next (off : HostOff) (v : Word) (s : State) : ∃ t, hostWrite off v s = .next t := by
  unfold hostWrite
  cases hostReg off with
  | cmd => exact cmdWrite_next v s
  | _ => exact ⟨_, rfl⟩

/-- With reset released, an access of the port's shape has a step (R77, R240). -/
theorem hostStep_carried {a : HostAccess} {s : State} (hrst : s.inReset = false) (ha : a.carried = true) :
    ∃ t, hostStep a s = .next t := by
  cases a with
  | read size off =>
    have hw : wholeWord size off = true := ha
    exact ⟨{ s with hostRdata := s.hostRead off }, by simp [hostStep, hrst, hw]⟩
  | write size off v =>
    rw [hostStep_write_of_wholeWord v hrst ha]
    exact hostWrite_next off v s

/-- Why a host access has no step (R77, R240). -/
theorem hostStep_refused {a : HostAccess} {s : State} {r : Refusal} (h : hostStep a s = .refused r) :
    (r = .hostAccessInReset ∧ s.inReset = true) ∨ (r = .hostAccessNotWord ∧ s.inReset = false ∧ a.carried = false) := by
  cases hrst : s.inReset with
  | true =>
    simp only [hostStep, hrst, if_true] at h
    cases h
    exact .inl ⟨rfl, rfl⟩
  | false =>
    cases ha : a.carried with
    | true =>
      obtain ⟨t, ht⟩ := hostStep_carried hrst ha
      rw [ht] at h
      cases h
    | false =>
      refine .inr ⟨?_, rfl, rfl⟩
      cases a with
      | read size off => rw [hostStep_read_refused hrst ha] at h; cases h; rfl
      | write size off v => rw [hostStep_write_refused v hrst ha] at h; cases h; rfl

/-- An input is refused for its host access alone. -/
theorem applyInput_refused {x : Input} {s : State} {r : Refusal} (h : applyInput x s = .refused r) :
    ∃ a, x.access = some a ∧ ((r = .hostAccessInReset ∧ x = .host a ∧ s.inReset = true) ∨
      (r = .hostAccessNotWord ∧ a.carried = false)) := by
  cases x with
  | host a =>
    rcases hostStep_refused h with ⟨hr, hrst⟩ | ⟨hr, _, ha⟩
    · exact ⟨a, rfl, .inl ⟨hr, rfl, hrst⟩⟩
    · exact ⟨a, rfl, .inr ⟨hr, ha⟩⟩
  | seq d =>
    simp only [applyInput, seqInput] at h
    split at h
    · cases h
    · exact absurd h (seqStep_not_refused d s r)
  | seqRef =>
    obtain ⟨d, l, href⟩ := referenceTargetIsADraw s
    simp only [applyInput, refInput, href] at h
    split at h
    · cases h
    · exact absurd h (seqStep_not_refused _ _ _)
  | cycle rst a d =>
    simp only [applyInput, cycleInput] at h
    split at h
    · cases h
    · cases a with
      | none => exact absurd h (seqStep_not_refused _ _ _)
      | some a =>
        refine ⟨a, rfl, .inr ?_⟩
        cases hu : hostStep a (s.driveReset false) with
        | next u =>
          simp only [hu] at h
          split at h
          · exact absurd h (seqStep_not_refused _ _ _)
          · cases h
        | fault q => simp only [hu] at h; cases h
        | refused q =>
          simp only [hu] at h
          cases h
          rcases hostStep_refused hu with ⟨_, hrst⟩ | ⟨hr, _, ha⟩
          · cases hrst
          · exact ⟨hr, ha⟩
  | rst b => cases h
  | convert a b => cases h
  | powerUp a b => cases h

/-- Settles O44: the refused step is the first input's, and its host access is the reason. -/
theorem onlyHostAccessesRefused : Obligations.OnlyHostAccessesRefused := by
  intro s r h
  cases hin : s.inputs with
  | nil =>
    have hseq : applyInput (.seq none) s = .refused r := by
      rw [← h]
      simp only [step, takeInput, hin]
      rfl
    obtain ⟨a, ha, _⟩ := applyInput_refused hseq
    cases ha
  | cons x rest =>
    rw [step_of_inputs_cons hin] at h
    obtain ⟨a, ha, hreason⟩ := applyInput_refused h
    exact ⟨x, rest, a, rfl, ha, hreason⟩

/-! ## A transaction without an outcome -/

/-- `t` is `s` with the running transaction as it was, and nothing more on the wire. -/
structure StillHung (s t : State) : Prop where
  inReset : t.inReset = false
  done : t.done = false
  seq : t.seq = s.seq
  cmd : t.cmd = s.cmd
  latch : t.latch = s.latch
  work : t.work = s.work
  wire : t.wire = s.wire
  result : t.result = s.result

theorem StillHung.trans {s t u : State} (h : StillHung s t) (h' : StillHung t u) : StillHung s u :=
  ⟨h'.inReset, h'.done, h'.seq.trans h.seq, h'.cmd.trans h.cmd, h'.latch.trans h.latch, h'.work.trans h.work,
    h'.wire.trans h.wire, h'.result.trans h.result⟩

/-- A transaction without an outcome still runs after the sequencer's step (R128). -/
theorem seqStep_none_inTransaction {s : State} (htx : s.seq.inTransaction = true) : seqStep none s = .next s := by
  unfold seqStep
  cases hs : s.seq <;> simp_all [Seq.inTransaction, whenAnswered]

theorem ne_idle_of_inTransaction {s : State} (htx : s.seq.inTransaction = true) : s.seq ≠ .idle := by
  intro hs
  simp [hs, Seq.inTransaction] at htx

/-- A host access of the port's shape leaves the transaction as it was (R87). -/
theorem hostStep_stillHung {a : HostAccess} {s : State} (hrst : s.inReset = false) (hd : s.done = false)
    (htx : s.seq.inTransaction = true) (ha : a.carried = true) : ∃ t, hostStep a s = .next t ∧ StillHung s t := by
  obtain ⟨t, ht⟩ := hostStep_carried hrst ha
  refine ⟨t, ht, ?_⟩
  rw [hostStep_running (ne_idle_of_inTransaction htx) hd ht]
  exact ⟨hrst, hd, rfl, rfl, rfl, rfl, rfl, rfl⟩

/-- A silent input has a step and leaves the transaction as it was. -/
theorem applyInput_stillHung {x : Input} {s : State} (hrst : s.inReset = false) (hd : s.done = false)
    (htx : s.seq.inTransaction = true) (hx : x.silent = true) : ∃ t, applyInput x s = .next t ∧ StillHung s t := by
  have hself : StillHung s s := ⟨hrst, hd, rfl, rfl, rfl, rfl, rfl, rfl⟩
  have hrelease : s.driveReset false = s := by
    show { s with inReset := false } = s
    rw [← hrst]
  cases x with
  | host a => exact hostStep_stillHung hrst hd htx hx
  | seq d =>
    obtain rfl : d = none := Option.isNone_iff_eq_none.1 hx
    exact ⟨s, (applyInput_seq hrst).trans (seqStep_none_inTransaction htx), hself⟩
  | seqRef => cases hx
  | cycle r a d =>
    cases a with
    | none =>
      simp only [Input.silent, Bool.and_eq_true, Bool.not_eq_true', Option.isNone_iff_eq_none] at hx
      obtain ⟨rfl, rfl⟩ := hx
      refine ⟨s, ?_, hself⟩
      show seqStep none (s.driveReset false) = _
      rw [hrelease, seqStep_none_inTransaction htx]
    | some a =>
      simp only [Input.silent, Bool.and_eq_true, Bool.not_eq_true', Option.isNone_iff_eq_none] at hx
      obtain ⟨⟨rfl, ha⟩, rfl⟩ := hx
      obtain ⟨t, ht, hung⟩ := hostStep_stillHung hrst hd htx ha
      refine ⟨_, cycleInput_running (ne_idle_of_inTransaction htx) hd (u := t) (t := s) ?_ ?_,
        ⟨hrst, hd, rfl, rfl, rfl, rfl, rfl, rfl⟩⟩
      · rwa [show ({ s with inReset := false } : State) = s from hrelease]
      · rw [show ({ s with inReset := false } : State) = s from hrelease, seqStep_none_inTransaction htx]
  | rst b => cases hx
  | convert a b =>
    refine ⟨_, rfl, ?_⟩
    unfold State.convertAt
    split <;> exact ⟨hrst, hd, rfl, rfl, rfl, rfl, rfl, rfl⟩
  | powerUp a b => exact ⟨_, rfl, ⟨hrst, hd, rfl, rfl, rfl, rfl, rfl, rfl⟩⟩

/-- A step with silent inputs waiting leaves the transaction as it was, and silent inputs waiting. -/
theorem step_stillHung {s : State} (hrst : s.inReset = false) (hd : s.done = false)
    (htx : s.seq.inTransaction = true) (hin : ∀ x ∈ s.inputs, x.silent = true) :
    ∃ t, step s = .next t ∧ StillHung s t ∧ ∀ x ∈ t.inputs, x.silent = true := by
  cases hl : s.inputs with
  | nil =>
    have hstep : step s = .next s := by
      simp only [step, takeInput, hl]
      exact (applyInput_seq hrst).trans (seqStep_none_inTransaction htx)
    exact ⟨s, hstep, ⟨hrst, hd, rfl, rfl, rfl, rfl, rfl, rfl⟩, hin⟩
  | cons x rest =>
    rw [hl] at hin
    obtain ⟨t, ht, hung⟩ := applyInput_stillHung (s := { s with inputs := rest }) hrst hd htx
      (hin x (List.mem_cons_self ..))
    refine ⟨t, (step_of_inputs_cons hl).trans ht,
      ⟨hung.inReset, hung.done, hung.seq, hung.cmd, hung.latch, hung.work, hung.wire, hung.result⟩, fun y hy => ?_⟩
    rw [applyInput_inputs ht] at hy
    exact hin y (List.mem_cons_of_mem _ hy)

/-- Settles O39, by induction on the number of steps: each step leaves the transaction as it was. -/
theorem hungTransactionNeverEnds : Obligations.HungTransactionNeverEnds := by
  intro n s hrst hd htx hin
  have hrun : ∃ t, Host.Core.run Sys2Proof.core n s = .next t ∧ StillHung s t := by
    induction n generalizing s with
    | zero => exact ⟨s, rfl, ⟨hrst, hd, rfl, rfl, rfl, rfl, rfl, rfl⟩⟩
    | succ n ih =>
      obtain ⟨t, hstep, hung, hin'⟩ := step_stillHung hrst hd htx hin
      obtain ⟨u, hu, hung'⟩ := ih t hung.inReset hung.done (by rw [hung.seq]; exact htx) hin'
      exact ⟨u, (run_succ_next (M := Sys2Proof.core) hstep).trans hu, hung.trans hung'⟩
  obtain ⟨t, ht, hung⟩ := hrun
  have hbusy : t.busy = true := (busy_iff t).2 (by rw [hung.seq]; exact ne_idle_of_inTransaction htx)
  exact ⟨t, ht, hung.seq, hbusy, hung.done, hung.cmd, hung.latch, hung.work, hung.wire, hung.result⟩

end Sys2Proof.Proofs
end

section
/-! SUPPORT. Every step keeps the machine coherent; and the statements about coherent states (10, 40, 41): no fault, the
shape of the transactions, and the end of every command. -/

namespace Sys2Proof.Proofs

open Sys2Proof.Laws Sys2Proof.Machine

/-! ## Coherence and the model's own fields -/

/-- What coherence asks of the reference targets. -/
structure TargetsCoherent (l : List (BusAddr × Target)) : Prop where
  rising : targetsRising l = true
  standby : ∀ e ∈ l, e.2.shdn = true → e.2.dataRdy = false

theorem targetsCoherent_of_coherent {s : State} (h : Coherent s) : TargetsCoherent s.targets := ⟨h.rising, h.standby⟩

/-- The reset level can be released and the reference targets can change. -/
theorem coherent_rebase {r : Bool} {l : List (BusAddr × Target)} {s : State} (h : Coherent s)
    (hr : r = true → s.inReset = true) (hl : TargetsCoherent l) : Coherent (rebase r l s) where
  params := h.params
  busCfg := h.busCfg
  doneIdle := h.doneIdle
  held := h.held
  latched := h.latched
  legalRuns := h.legalRuns
  command := h.command
  quiet := h.quiet
  atReset := fun hrst => congrArg (rebase r l) (h.atReset (hr hrst))
  rising := hl.rising
  standby := hl.standby

/-- The waiting inputs play no part. -/
theorem coherent_withInputs {s : State} (h : Coherent s) (l : List Input) : Coherent (withInputs l s) where
  params := h.params
  busCfg := h.busCfg
  doneIdle := h.doneIdle
  held := h.held
  latched := h.latched
  legalRuns := h.legalRuns
  command := h.command
  quiet := h.quiet
  atReset := fun hrst => congrArg (withInputs l) (h.atReset hrst)
  rising := h.rising
  standby := h.standby

/-- Every controller register at its reset value is a coherent controller (R59). -/
theorem coherent_of_resetController {s : State} (hs : s = s.resetController) (hp : s.params.WellFormed)
    (hl : TargetsCoherent s.targets) : Coherent s := by
  have hseq : s.seq = .idle := congrArg State.seq hs
  have hcmd : s.cmd = 0#32 := congrArg State.cmd hs
  have hlatch : s.latch = Latches.reset := congrArg State.latch hs
  have hinit : s.initDone = false := congrArg State.initDone hs
  have hclk : s.busClk = none := congrArg State.busClk hs
  have hpullup : s.busPullup = false := congrArg State.busPullup hs
  have hheld : s.busHeld = false := congrArg State.busHeld hs
  have hqcnt : s.qcnt = 0 := congrArg State.qcnt hs
  exact
    { params := hp
      busCfg := .inr ⟨hinit, hclk, hpullup⟩
      doneIdle := fun _ => hseq
      held := by simp [hheld, hseq]
      latched := by rw [hlatch, hcmd]; decide
      legalRuns := fun hrun => absurd hseq hrun
      command := by simp only [State.CommandCoherent, hseq]
      quiet := by rw [hqcnt]; exact Nat.zero_le _
      atReset := fun _ => hs
      rising := hl.rising
      standby := hl.standby }

theorem default_wellFormed : Params.default.WellFormed := ⟨rfl, by decide, by decide, Nat.le_add_left ..⟩

/-- Settles O41: every register has its reset value, the parameters are the defaults, and no target is listed. -/
theorem resetIsCoherent : Obligations.ResetIsCoherent :=
  coherent_of_resetController rfl default_wellFormed ⟨rfl, fun _ he => absurd he (List.not_mem_nil)⟩

/-! ## Reference targets -/

theorem targetsCoherent_putTarget {l : List (BusAddr × Target)} (h : TargetsCoherent l) (a : BusAddr) {t : Target}
    (ht : t.shdn = true → t.dataRdy = false) : TargetsCoherent (putTarget l a t) where
  rising := putTarget_rising a t h.rising
  standby := fun e he => by
    rcases putTarget_mem l a t e he with hold | rfl
    · exact h.standby e hold
    · exact ht

theorem targetsCoherent_targetsAfter {l : List (BusAddr × Target)} (h : TargetsCoherent l) (p : Params) (x : Tx) :
    TargetsCoherent (targetsAfter p x l) := by
  unfold targetsAfter
  split
  · exact h
  · next t ht =>
    split
    · exact targetsCoherent_putTarget h _ (after_standby p x t (h.standby _ (mem_of_targetAt ht)))
    · exact h

/-- A conversion happens outside standby only (R225). -/
theorem targetsCoherent_convertAt {s : State} (h : TargetsCoherent s.targets) (a : BusAddr) (b : Byte) :
    TargetsCoherent (s.convertAt a b).targets := by
  unfold State.convertAt
  split
  · exact h
  · next t ht =>
    refine targetsCoherent_putTarget h a ?_
    have hold := h.standby _ (mem_of_targetAt ht)
    unfold Target.convert
    split
    · next hawake => simp only [Bool.and_eq_true, Bool.not_eq_true'] at hawake; simp [hawake.2]
    · exact hold

/-! ## The command that runs -/

theorem commandCoherent_of_idle {s : State} (hs : s.seq = .idle) : s.CommandCoherent := by
  simp only [State.CommandCoherent, hs]

/-- In the states of a read access the latched command is one that reads. -/
theorem readAccessCoherent_op {s : State} (h : s.ReadAccessCoherent) : ∃ op : Opcode, op ≠ .init ∧ s.latch.op = opBits op := by
  rcases h with ⟨hop, _⟩ | ⟨hop, _⟩ | ⟨hop, _⟩ | ⟨hop, _⟩
  exacts [⟨.readReg, Opcode.noConfusion, hop⟩, ⟨.readConfig, Opcode.noConfusion, hop⟩,
    ⟨.readTemp, Opcode.noConfusion, hop⟩, ⟨.readTemp, Opcode.noConfusion, hop⟩]

/-- In the states of a write access it is one that writes. -/
theorem writeAccessCoherent_op {s : State} (h : s.WriteAccessCoherent) :
    ∃ op : Opcode, op ≠ .init ∧ s.latch.op = opBits op := by
  rcases h with ⟨hop, _⟩ | ⟨hop, _⟩
  exacts [⟨.writeReg, Opcode.noConfusion, hop⟩, ⟨.setStandby, Opcode.noConfusion, hop⟩]

/-- A sequencer step stays within the latched command (R146 to R150). -/
theorem seqStep_commandCoherent {d : Option BusDraw} {s t : State} (hc : s.CommandCoherent)
    (h : seqStep d s = .next t) : t.CommandCoherent := by
  cases seqStep_cases h with
  | rests ht hs => exact ht ▸ hc
  | configures hs ht => subst ht; exact commandCoherent_of_idle rfl
  | counts hs hq ht =>
    subst ht
    simp only [State.CommandCoherent, hs] at hc ⊢
    exact hc
  | finishes hs hq ht =>
    simp only [State.CommandCoherent, hs] at hc
    rcases quietEnd_cases ht with ⟨c, r, b, rfl⟩ | ⟨hop, hstage, hok, rfl⟩
    · exact commandCoherent_of_idle rfl
    · exact ⟨hc.1, hop, hstage, hok⟩
  | checks hs ht =>
    simp only [State.CommandCoherent, hs] at hc
    obtain ⟨hbus, hop, _, _⟩ := hc
    subst ht
    rcases checkReady_cases s with ⟨_, hcheck⟩ | ⟨_, hcheck⟩ <;> rw [hcheck]
    · exact commandCoherent_of_idle rfl
    · exact ⟨hbus, .inr (.inr (.inr ⟨hop, rfl, rfl⟩))⟩
  | ends x hd ht =>
    cases ht with
    | probe hs ht =>
      simp only [State.CommandCoherent, hs] at hc
      subst ht
      exact ⟨hc.2, .probe, Opcode.noConfusion, hc.1⟩
    | heldTaken hs hk ho ht =>
      simp only [State.CommandCoherent, hs, hk] at hc
      subst ht
      exact ⟨hc.1, hk, hc.2⟩
    | heldFailed hs hk ho ht =>
      simp only [State.CommandCoherent, hs, hk] at hc
      subst ht
      exact ⟨hc.1, readAccessCoherent_op hc.2⟩
    | written hs hk ht =>
      simp only [State.CommandCoherent, hs, hk] at hc
      subst ht
      exact ⟨hc.1, writeAccessCoherent_op hc.2⟩
    | byteRead hs ho ht =>
      simp only [State.CommandCoherent, hs] at hc
      subst ht
      exact ⟨hc.1, readAccessCoherent_op hc.2.2⟩
    | readFailed hs ho ht =>
      simp only [State.CommandCoherent, hs] at hc
      subst ht
      exact ⟨hc.1, readAccessCoherent_op hc.2.2⟩

/-- A dispatch starts the sequencer on the latched command (R145). -/
theorem dispatchOf_commandCoherent {op : Opcode} {s : State} (hop : op ≠ .init) (hlatch : s.latch.op = opBits op)
    (hbus : s.BusAllowed) : (dispatchOf op s).CommandCoherent := by
  cases op with
  | init => exact absurd rfl hop
  | probe => exact ⟨hlatch, hbus⟩
  | readConfig => exact ⟨hbus, .inr (.inl ⟨hlatch, rfl⟩)⟩
  | readTemp => exact ⟨hbus, .inr (.inr (.inl ⟨hlatch, rfl, rfl⟩))⟩
  | setStandby => exact ⟨hbus, .inr ⟨hlatch, rfl, rfl⟩⟩
  | readReg => exact ⟨hbus, .inl ⟨hlatch, rfl⟩⟩
  | writeReg => exact ⟨hbus, .inl ⟨hlatch, rfl, rfl⟩⟩

/-- The checks of R143 complete the command, or start the first INIT, or dispatch a command that may use the bus. -/
theorem bodyOf_ends (op : Opcode) (s : State) :
    (∃ c r, bodyOf op s = s.complete c r false) ∨
      (op = .init ∧ s.initDone = false ∧ bodyOf op s = { s with seq := .cfg }) ∨
      (op ≠ .init ∧ s.BusAllowed ∧ bodyOf op s = dispatchOf op s) := by
  by_cases hinit : s.initDone = true
  · by_cases hop : op = .init
    · subst hop
      exact .inl ⟨_, _, bodyOf_secondInit hinit⟩
    · by_cases haddr : s.latch.addr ∈ s.params.legalAddrs
      · exact .inr (.inr ⟨hop, ⟨hinit, (admissible_iff _ _).2 haddr⟩, bodyOf_dispatch hop hinit haddr⟩)
      · exact .inl ⟨_, _, bodyOf_illegalAddr hop hinit haddr⟩
  · have hinit' : s.initDone = false := Bool.eq_false_iff.2 hinit
    by_cases hop : op = .init
    · subst hop
      exact .inr (.inl ⟨rfl, hinit', bodyOf_firstInit hinit'⟩)
    · exact .inl ⟨_, _, bodyOf_notInit hop hinit'⟩

/-- They leave the sequencer idle or on the latched command. -/
theorem bodyOf_commandCoherent {op : Opcode} {s : State} (hlatch : s.latch.op = opBits op) :
    (bodyOf op s).CommandCoherent := by
  rcases bodyOf_ends op s with ⟨c, r, hbody⟩ | ⟨rfl, hinit, hbody⟩ | ⟨hop, hbus, hbody⟩ <;> rw [hbody]
  · exact commandCoherent_of_idle rfl
  · exact ⟨hlatch, hinit⟩
  · exact dispatchOf_commandCoherent hop hlatch hbus

/-- No command starts in the middle of a read access. -/
theorem bodyOf_seq_ne_rdTx (op : Opcode) (s : State) : (bodyOf op s).seq ≠ .rdTx := by
  rcases bodyOf_ends op s with ⟨c, r, hbody⟩ | ⟨rfl, _, hbody⟩ | ⟨hop, _, hbody⟩ <;> rw [hbody]
  · exact nofun
  · exact nofun
  · cases op with
    | init => exact absurd rfl hop
    | _ => exact nofun

/-- What an accepted word leaves (R142, R143): the sequencer is idle, or it is at the start of the word's own command. -/
structure WordStarted (w : Word) (t : State) : Prop where
  command : t.CommandCoherent
  legalRuns : t.seq ≠ .idle → legal w = true
  atStart : t.seq ≠ .rdTx

theorem cmdWrite_started {w : Word} {s t : State} (hs : s.seq = .idle) (h : cmdWrite w s = .next t) :
    WordStarted w t := by
  cases hdec : decode w with
  | error e =>
    rw [cmdWrite_idle_of_decode_error hs hdec] at h
    cases h
    exact ⟨commandCoherent_of_idle rfl, fun hrun => absurd rfl hrun, nofun⟩
  | ok i =>
    obtain ⟨op, hrow, _⟩ := decode_eq_ok_iff.1 hdec
    rw [cmdWrite_idle_of_hitsRow hs hrow] at h
    cases h
    exact ⟨bodyOf_commandCoherent (fieldOp_of_hitsRow hrow), fun _ => (legal_iff_exists_hitsRow w).2 ⟨op, hrow⟩,
      bodyOf_seq_ne_rdTx op _⟩

/-! ## Steps keep coherence -/

/-- BUS_HELD is 1 exactly in RD_TX after a sequencer step (R129). -/
theorem seqStep_held {d : Option BusDraw} {s t : State} (hheld : s.busHeld = true ↔ s.seq = .rdTx)
    (h : seqStep d s = .next t) : t.busHeld = true ↔ t.seq = .rdTx := by
  have hfree (hs : s.seq ≠ .rdTx) : s.busHeld = false := by rwa [← Bool.not_eq_true, hheld]
  cases seqStep_cases h with
  | rests ht hs => exact ht ▸ hheld
  | configures hs ht => subst ht; simp [finishInit, hfree, hs]
  | counts hs hq ht => subst ht; simp [hfree, hs]
  | finishes hs hq ht => rcases quietEnd_cases ht with ⟨c, r, b, rfl⟩ | ⟨_, _, _, rfl⟩ <;> simp [hfree, hs]
  | checks hs ht =>
    subst ht
    rcases checkReady_cases s with ⟨_, hc⟩ | ⟨_, hc⟩ <;> rw [hc] <;> simp [hfree, hs]
  | ends x hd ht =>
    have hend := transactionEndsHeldOrQuiet s t x (txEnd_inTransaction ht) (hd ▸ h)
    by_cases htaken : s.seq = .wrTx ∧ s.work.accKind = .read ∧ x.takesCommand s.latch.addr s.work.accCmdb
    · obtain ⟨hseq, hbus, _⟩ := hend.1 htaken
      simp [hseq, hbus]
    · obtain ⟨hseq, hbus, _⟩ := hend.2 htaken
      simp [hseq, hbus]

/-- QCNT stays within what QUIESCE loads (R53). -/
theorem seqStep_qcnt {d : Option BusDraw} {s t : State} (hq : s.qcnt ≤ s.params.qCycles) (h : seqStep d s = .next t) :
    t.qcnt ≤ s.params.qCycles := by
  cases seqStep_cases h with
  | rests ht hs => exact ht ▸ hq
  | configures hs ht => subst ht; exact hq
  | counts hs hne ht => subst ht; exact (Nat.sub_le ..).trans hq
  | finishes hs hz ht => rcases quietEnd_cases ht with ⟨c, r, b, rfl⟩ | ⟨_, _, _, rfl⟩ <;> exact hq
  | checks hs ht =>
    subst ht
    rcases checkReady_cases s with ⟨_, hc⟩ | ⟨_, hc⟩ <;> rw [hc] <;> exact hq
  | ends x hd ht => cases ht <;> subst_vars <;> first | exact hq | exact le_rfl

/-- A sequencer step with reset released keeps a coherent state coherent. -/
theorem seqStep_coherent {d : Option BusDraw} {s t : State} (hc : Coherent s) (hrst : s.inReset = false)
    (h : seqStep d s = .next t) : Coherent t := by
  obtain ⟨hcmd, _, _, hlatch, hreset, hparams, htargets, _, _⟩ := seqStep_kept h
  have hrunning (hrun : t.seq ≠ .idle) : s.seq ≠ .idle := by
    rcases seqStep_outcome h with ⟨_, hidle⟩ | ⟨_, _, hiff⟩
    · exact absurd hidle hrun
    · exact fun hs => hrun (hiff.2 hs)
  exact
    { params := by rw [hparams]; exact hc.params
      busCfg := by
        rw [hparams]
        rcases seqStep_busCfg h with ⟨_, rfl⟩ | ⟨hinit, hclk, hpullup⟩
        · exact .inl ⟨rfl, rfl, rfl⟩
        · rw [hinit, hclk, hpullup]; exact hc.busCfg
      doneIdle := by
        intro hdone
        rcases seqStep_outcome h with ⟨_, hidle⟩ | ⟨_, hkeep, hiff⟩
        · exact hidle
        · exact hiff.2 (hc.doneIdle (hkeep ▸ hdone))
      held := seqStep_held hc.held h
      latched := by rw [hlatch, hcmd]; exact hc.latched
      legalRuns := fun hrun => by rw [hcmd]; exact hc.legalRuns (hrunning hrun)
      command := seqStep_commandCoherent hc.command h
      quiet := by rw [hparams]; exact seqStep_qcnt hc.quiet h
      atReset := fun hr => by rw [hreset, hrst] at hr; cases hr
      rising := by rw [htargets]; exact hc.rising
      standby := by rw [htargets]; exact hc.standby }

/-- An accepted word keeps an idle coherent state coherent. -/
theorem cmdWrite_coherent {w : Word} {s t : State} (hc : Coherent s) (hrst : s.inReset = false) (hs : s.seq = .idle)
    (h : cmdWrite w s = .next t) : Coherent t := by
  obtain ⟨hcommand, hlegal, hstart⟩ := cmdWrite_started hs h
  have hfree : s.busHeld = false := by
    rw [← Bool.not_eq_true, hc.held, hs]
    decide
  have hreset (hr : s.inReset = true) : False := by rw [hrst] at hr; cases hr
  rcases cmdWrite_accepts hs h with ⟨c, r, rfl⟩ | ⟨x, k, hx, rfl⟩
  · exact ⟨hc.params, hc.busCfg, fun _ => rfl, by simp [hfree], rfl, fun hrun => absurd rfl hrun, hcommand, hc.quiet,
      fun hr => (hreset hr).elim, hc.rising, hc.standby⟩
  · have hnot : x ≠ .rdTx := hstart
    exact ⟨hc.params, hc.busCfg, fun hd => (Bool.false_ne_true hd).elim, by simp [hfree, hnot], rfl, hlegal, hcommand,
      hc.quiet, fun hr => (hreset hr).elim, hc.rising, hc.standby⟩

/-- A host access that is taken keeps a coherent state coherent. -/
theorem hostStep_coherent {a : HostAccess} {s t : State} (hc : Coherent s) (h : hostStep a s = .next t) : Coherent t := by
  obtain ⟨hrst, _⟩ := hostStep_cases h
  have hreset (hr : s.inReset = true) : False := by rw [hrst] at hr; cases hr
  cases hostStep_move h with
  | accepts w hs hw => exact cmdWrite_coherent hc hrst hs hw
  | ignores ht => exact ht ▸ hc
  | clears off v ha hoff ht =>
    subst ht
    exact ⟨hc.params, hc.busCfg, fun hd => hc.doneIdle (Bool.and_eq_true_iff.1 hd).1, hc.held, hc.latched, hc.legalRuns,
      hc.command, hc.quiet, fun hr => (hreset hr).elim, hc.rising, hc.standby⟩
  | _ =>
    subst_vars
    exact ⟨hc.params, hc.busCfg, hc.doneIdle, hc.held, hc.latched, hc.legalRuns, hc.command, hc.quiet,
      fun hr => (hreset hr).elim, hc.rising, hc.standby⟩

theorem coherent_release {s : State} (hc : Coherent s) : Coherent (s.driveReset false) :=
  coherent_rebase hc (fun hr => (Bool.false_ne_true hr).elim) (targetsCoherent_of_coherent hc)

/-- Each input that is taken keeps a coherent state coherent. -/
theorem applyInput_coherent {x : Input} {s t : State} (hc : Coherent s) (h : applyInput x s = .next t) : Coherent t := by
  cases x with
  | host a => exact hostStep_coherent hc h
  | seq d =>
    simp only [applyInput, seqInput] at h
    split at h
    · cases h; exact hc
    · next hrst => exact seqStep_coherent hc (Bool.eq_false_iff.2 hrst) h
  | seqRef =>
    simp only [applyInput, refInput] at h
    split at h
    · cases h; exact hc
    · next hrst =>
      have hrst' : s.inReset = false := Bool.eq_false_iff.2 hrst
      cases hx : s.runningTx with
      | none =>
        simp only [refStep, hx] at h
        exact seqStep_coherent hc hrst' h
      | some x =>
        rw [refStep_of_running hx] at h
        exact seqStep_coherent (s := withTargets _ s)
          (coherent_rebase hc id (targetsCoherent_targetsAfter (targetsCoherent_of_coherent hc) s.params x)) hrst' h
  | cycle r a d =>
    cases r with
    | true =>
      cases h
      exact coherent_of_resetController (s := s.driveReset true) rfl hc.params (targetsCoherent_of_coherent hc : TargetsCoherent s.targets)
    | false =>
      cases a with
      | none => exact seqStep_coherent (coherent_release hc) rfl h
      | some a =>
        have hcycle : cycleInput false (some a) d s = .next t := h
        simp only [cycleInput, Bool.false_eq_true, if_false] at hcycle
        cases hu : hostStep a (s.driveReset false) with
        | next u =>
          have hcu := hostStep_coherent (coherent_release hc) hu
          simp only [hu] at hcycle
          split at hcycle
          · next hbusy =>
            obtain ⟨r, o, v, hframe, _⟩ := hostStep_busy (s := s.driveReset false) ((busy_iff s).1 hbusy) hu
            exact seqStep_coherent hcu (congrArg State.inReset hframe) hcycle
          · cases hcycle; exact hcu
        | fault r => simp only [hu] at hcycle; cases hcycle
        | refused r => simp only [hu] at hcycle; cases hcycle
  | rst b =>
    cases h
    cases b with
    | true => exact coherent_of_resetController (s := s.driveReset true) rfl hc.params (targetsCoherent_of_coherent hc : TargetsCoherent s.targets)
    | false => exact coherent_release hc
  | convert a b =>
    cases h
    have hl := targetsCoherent_convertAt (targetsCoherent_of_coherent hc) a b
    unfold State.convertAt at hl ⊢
    split
    · exact hc
    · next t ht =>
      rw [ht] at hl
      exact coherent_rebase hc id hl
  | powerUp a b =>
    cases h
    exact coherent_rebase hc id (targetsCoherent_putTarget (targetsCoherent_of_coherent hc) a fun hs => (Bool.false_ne_true hs).elim)

/-- Settles O42: the first waiting input keeps coherence, and so does the sequencer's step when none waits. -/
theorem stepsKeepCoherence : Obligations.StepsKeepCoherence := by
  intro s t hc h
  rcases step_cases h with ⟨_, hseq⟩ | ⟨x, rest, u, _, hu, rfl⟩
  · exact applyInput_coherent (x := .seq none) hc hseq
  · exact coherent_withInputs (applyInput_coherent hc hu) rest

/-! ## No fault -/

/-- With STATUS.INIT set, the bus is configured (R51). -/
theorem busConfigured_of_coherent {s : State} (hc : Coherent s) (hinit : s.initDone = true) : s.busConfigured = true := by
  rcases hc.busCfg with ⟨_, hclk, hpullup⟩ | ⟨hno, _⟩
  · simp [State.busConfigured, hclk, hpullup]
  · rw [hinit] at hno; cases hno

/-- Every sequencer step of a coherent state has a next state (R132, R148). -/
theorem seqStep_next {s : State} (hc : Coherent s) (d : Option BusDraw) : ∃ t, seqStep d s = .next t := by
  have hcommand := hc.command
  have hfree (hs : s.seq ≠ .rdTx) : s.busHeld = false := by rwa [← Bool.not_eq_true, hc.held]
  cases hs : s.seq <;> simp only [State.CommandCoherent, hs] at hcommand <;> simp only [seqStep, hs]
  case idle => exact ⟨_, rfl⟩
  case cfg => exact ⟨_, rfl⟩
  case check => exact ⟨_, rfl⟩
  case quiesce =>
    obtain ⟨_, op, hop, hlatch⟩ := hcommand
    unfold quiesceStep
    split
    · exact ⟨_, postAccess_of_op (s := s.logQuiet) hop hlatch⟩
    · exact ⟨_, rfl⟩
  case probeRd =>
    have hbus := busConfigured_of_coherent hc hcommand.2.1
    cases d with
    | none => exact ⟨_, rfl⟩
    | some x => exact ⟨_, if_pos hbus⟩
  case wrTx =>
    have hbus : (s.busConfigured && !s.busHeld) = true := by
      rw [busConfigured_of_coherent hc hcommand.1.1, hfree (by rw [hs]; decide)]
      rfl
    cases d with
    | none => exact ⟨_, rfl⟩
    | some x =>
      simp only [whenAnswered, wrTxStep]
      cases s.work.accKind with
      | read =>
        simp only [heldWriteStep, hbus, if_true]
        split <;> exact ⟨_, rfl⟩
      | write => exact ⟨_, if_pos hbus⟩
  case rdTx =>
    have hbus := busConfigured_of_coherent hc hcommand.1.1
    cases d with
    | none => exact ⟨_, rfl⟩
    | some x =>
      simp only [whenAnswered, rdTxStep, hbus, if_true]
      rcases (busRead_cases s.latch.addr 1 true s.busHeld x).2 with ho | ho <;> rw [ho] <;> exact ⟨_, rfl⟩

theorem seqStep_not_fault {s : State} (hc : Coherent s) (d : Option BusDraw) (r : Fault) : seqStep d s ≠ .fault r := by
  obtain ⟨t, ht⟩ := seqStep_next hc d
  rw [ht]
  exact nofun

/-- No input of a coherent state faults. -/
theorem applyInput_not_fault {s : State} (hc : Coherent s) (x : Input) (r : Fault) : applyInput x s ≠ .fault r := by
  intro h
  cases x with
  | host a => exact hostStep_not_fault a s r h
  | seq d =>
    simp only [applyInput, seqInput] at h
    split at h
    · cases h
    · exact seqStep_not_fault hc d r h
  | seqRef =>
    simp only [applyInput, refInput] at h
    split at h
    · cases h
    · cases hx : s.runningTx with
      | none =>
        simp only [refStep, hx] at h
        exact seqStep_not_fault hc none r h
      | some x =>
        rw [refStep_of_running hx] at h
        exact seqStep_not_fault (s := withTargets _ s)
          (coherent_rebase hc id (targetsCoherent_targetsAfter (targetsCoherent_of_coherent hc) s.params x)) _ r h
  | cycle rst a d =>
    simp only [applyInput, cycleInput] at h
    split at h
    · cases h
    · cases a with
      | none => exact seqStep_not_fault (coherent_release hc) d r h
      | some a =>
        cases hu : hostStep a (s.driveReset false) with
        | next u =>
          simp only [hu] at h
          split at h
          · exact seqStep_not_fault (hostStep_coherent (coherent_release hc) hu) d r h
          · cases h
        | fault q => exact hostStep_not_fault a _ q hu
        | refused q => simp only [hu] at h; cases h
  | rst b => cases h
  | convert a b => cases h
  | powerUp a b => cases h

/-- Settles O43: a step is the first waiting input's, or the sequencer's when none waits. -/
theorem coherentStatesNeverFault : Obligations.CoherentStatesNeverFault := by
  intro s r hc h
  cases hin : s.inputs with
  | nil =>
    simp only [step, takeInput, hin] at h
    exact applyInput_not_fault hc (.seq none) r h
  | cons x rest =>
    rw [step_of_inputs_cons hin] at h
    exact applyInput_not_fault (coherent_withInputs hc rest) x r h

/-! ## The shape of the transactions -/

/-- The running transaction of each transaction state (R81, R146). -/
theorem runningTx_probeRd {s : State} (hs : s.seq = .probeRd) :
    s.runningTx = some (.read s.latch.addr s.params.probeLen true) := by simp only [State.runningTx, hs]

theorem runningTx_heldWrite {s : State} (hs : s.seq = .wrTx) (hk : s.work.accKind = .read) :
    s.runningTx = some (.write s.latch.addr [s.work.accCmdb] false) := by simp only [State.runningTx, hs, hk]

theorem runningTx_wholeWrite {s : State} (hs : s.seq = .wrTx) (hk : s.work.accKind = .write) :
    s.runningTx = some (.write s.latch.addr [s.work.accCmdb, s.work.accData] true) := by
  simp only [State.runningTx, hs, hk]

theorem runningTx_rdTx {s : State} (hs : s.seq = .rdTx) : s.runningTx = some (.read s.latch.addr 1 true) := by
  simp only [State.runningTx, hs]

/-- A transaction runs exactly in the transaction states (R154). -/
theorem runningTx_isSome (s : State) : s.runningTx.isSome = s.seq.inTransaction := by
  cases hs : s.seq with
  | wrTx => cases hk : s.work.accKind <;> simp [State.runningTx, hs, hk, Seq.inTransaction]
  | _ => simp [State.runningTx, hs, Seq.inTransaction]

/-- The end of a transaction leaves the bus and the wire as the running transaction does under the draw. -/
theorem txEnd_run {d : BusDraw} {s t : State} (h : TxEnd d s t) :
    ∃ x, s.runningTx = some x ∧ t.wire = s.wire ++ (x.run s.busHeld d).wire ∧
      t.busHeld = (x.run s.busHeld d).held := by
  cases h with
  | probe hs ht => subst ht; exact ⟨_, runningTx_probeRd hs, rfl, rfl⟩
  | heldTaken hs hk ho ht => subst ht; exact ⟨_, runningTx_heldWrite hs hk, rfl, rfl⟩
  | heldFailed hs hk ho ht => subst ht; exact ⟨_, runningTx_heldWrite hs hk, rfl, rfl⟩
  | written hs hk ht => subst ht; exact ⟨_, runningTx_wholeWrite hs hk, rfl, rfl⟩
  | byteRead hs ho ht => subst ht; exact ⟨_, runningTx_rdTx hs, rfl, rfl⟩
  | readFailed hs ho ht => subst ht; exact ⟨_, runningTx_rdTx hs, rfl, rfl⟩

/-- An outcome ends a running transaction. -/
theorem txEnd_of_seqStep {d : BusDraw} {s t : State} (htx : s.seq.inTransaction = true)
    (h : seqStep (some d) s = .next t) : TxEnd d s t := by
  cases seqStep_cases h with
  | ends x hd ht => exact Option.some.inj hd ▸ ht
  | rests ht hs =>
    rcases hs with hs | ⟨hd, _⟩
    · simp [hs, Seq.inTransaction] at htx
    · cases hd
  | configures hs ht => simp [hs, Seq.inTransaction] at htx
  | counts hs hq ht => simp [hs, Seq.inTransaction] at htx
  | finishes hs hq ht => simp [hs, Seq.inTransaction] at htx
  | checks hs ht => simp [hs, Seq.inTransaction] at htx

theorem cmdByte_cases (p : Params) (r : TargetReg) : cmdByte p r = p.cmdTemp ∨ cmdByte p r = p.cmdConfig := by
  cases r
  exacts [.inl rfl, .inr rfl]

/-- A read access writes one of the two command bytes (R74). -/
theorem readAccessCoherent_cmdByte {s : State} (h : s.ReadAccessCoherent) :
    s.work.accCmdb = s.params.cmdTemp ∨ s.work.accCmdb = s.params.cmdConfig := by
  rcases h with ⟨_, hc⟩ | ⟨_, hc⟩ | ⟨_, _, hc⟩ | ⟨_, _, hc⟩ <;> rw [hc] <;> exact cmdByte_cases _ _

/-- So does a write access. -/
theorem writeAccessCoherent_cmdByte {s : State} (h : s.WriteAccessCoherent) :
    s.work.accCmdb = s.params.cmdTemp ∨ s.work.accCmdb = s.params.cmdConfig := by
  rcases h with ⟨_, hc, _⟩ | ⟨_, hc, _⟩ <;> rw [hc] <;> exact cmdByte_cases _ _

/-- Settles O34: the transaction of each transaction state, at the admissible address of the latched command. -/
theorem transactionsKeepTheirShape : Obligations.TransactionsKeepTheirShape := by
  intro s hc
  refine ⟨runningTx_isSome s, fun x hx => ?_⟩
  have htx : s.seq.inTransaction = true := by rw [← runningTx_isSome, hx]; rfl
  have hends (d : BusDraw) : ∃ t, seqStep (some d) s = .next t ∧ t.wire = s.wire ++ (x.run s.busHeld d).wire ∧
      t.busHeld = (x.run s.busHeld d).held := by
    obtain ⟨t, ht⟩ := seqStep_next hc (some d)
    obtain ⟨y, hy, hrun⟩ := txEnd_run (txEnd_of_seqStep htx ht)
    obtain rfl : x = y := Option.some.inj (hx.symm.trans hy)
    exact ⟨t, ht, hrun⟩
  have hcommand := hc.command
  refine ⟨hends, ?_⟩
  cases hs : s.seq <;> simp only [State.CommandCoherent, hs] at hcommand
  case probeRd =>
    rw [runningTx_probeRd hs] at hx
    cases hx
    exact ⟨rfl, (admissible_iff _ _).1 hcommand.2.2, .inr (.inr (.inr ⟨rfl, rfl⟩))⟩
  case wrTx =>
    obtain ⟨⟨_, haddr⟩, hacc⟩ := hcommand
    cases hk : s.work.accKind with
    | read =>
      rw [runningTx_heldWrite hs hk] at hx
      cases hx
      simp only [hk] at hacc
      exact ⟨rfl, (admissible_iff _ _).1 haddr, .inl ⟨rfl, rfl, _, rfl, readAccessCoherent_cmdByte hacc⟩⟩
    | write =>
      rw [runningTx_wholeWrite hs hk] at hx
      cases hx
      simp only [hk] at hacc
      exact ⟨rfl, (admissible_iff _ _).1 haddr, .inr (.inl ⟨rfl, rfl, _, _, rfl, writeAccessCoherent_cmdByte hacc⟩)⟩
  case rdTx =>
    rw [runningTx_rdTx hs] at hx
    cases hx
    exact ⟨rfl, (admissible_iff _ _).1 hcommand.1.2, .inr (.inr (.inl ⟨rfl, rfl⟩))⟩
  all_goals simp [hs, Seq.inTransaction] at htx

/-! ## Every command ends -/

/-- The sequencer steps READ_TEMP still has ahead after its configuration access (R152). -/
def secondAccess (s : State) : Nat :=
  if s.latch.op = opBits .readTemp ∧ s.work.stage = .config then s.params.qCycles + 4 else 0

/-- A bound on the sequencer steps a running command still takes when every transaction ends: one for each transaction and
for CHECK, and those of the intervals. -/
def remaining (s : State) : Nat :=
  match s.seq with
  | .idle => 0
  | .cfg => 1
  | .probeRd => s.params.qCycles + 2 + secondAccess s
  | .wrTx => s.params.qCycles + 3 + secondAccess s
  | .rdTx => s.params.qCycles + 2 + secondAccess s
  | .quiesce => s.qcnt + 1 + secondAccess s
  | .check => s.params.qCycles + 4

theorem secondAccess_le (s : State) : secondAccess s ≤ s.params.qCycles + 4 := by
  unfold secondAccess
  split
  exacts [le_rfl, Nat.zero_le _]

theorem remaining_le {s : State} (hc : Coherent s) : remaining s ≤ 2 * s.params.qCycles + 8 := by
  have hsecond := secondAccess_le s
  have hqcnt := hc.quiet
  unfold remaining
  split <;> omega

theorem remaining_pos {s : State} (hs : s.seq ≠ .idle) : 0 < remaining s := by
  cases h : s.seq with
  | idle => exact absurd h hs
  | _ => simp [remaining, h]

/-- A transaction state has at least its transaction, the interval and what follows it ahead. -/
theorem remaining_inTransaction {s : State} (htx : s.seq.inTransaction = true) :
    s.params.qCycles + 2 + secondAccess s ≤ remaining s := by
  cases hs : s.seq with
  | probeRd => simp [remaining, hs]
  | wrTx => simp only [remaining, hs]; omega
  | rdTx => simp [remaining, hs]
  | _ => simp [hs, Seq.inTransaction] at htx

/-- The end of a transaction does not write STAGE (R49, R146). -/
theorem txEnd_secondAccess {d : BusDraw} {s t : State} (h : TxEnd d s t) : secondAccess t = secondAccess s := by
  cases h <;> subst_vars <;> rfl

/-- Every sequencer step with an outcome brings the end of the command nearer. -/
theorem seqStep_remaining {d : BusDraw} {s t : State} (hs : s.seq ≠ .idle) (h : seqStep (some d) s = .next t) :
    remaining t < remaining s := by
  cases seqStep_cases h with
  | rests ht hr =>
    rcases hr with hidle | ⟨hd, _⟩
    · exact absurd hidle hs
    · cases hd
  | configures hseq ht => subst ht; simp [remaining, finishInit, hseq]
  | counts hseq hq ht =>
    subst ht
    simp only [remaining, hseq, secondAccess]
    omega
  | finishes hseq hq ht =>
    rcases quietEnd_cases ht with ⟨c, r, b, rfl⟩ | ⟨hop, hstage, _, rfl⟩
    · simp [remaining, hseq]
    · simp [remaining, hseq, secondAccess, hop, hstage, hq]
  | checks hseq ht =>
    subst ht
    rcases checkReady_cases s with ⟨_, hcheck⟩ | ⟨_, hcheck⟩ <;> simp [hcheck, remaining, hseq, secondAccess]
  | ends x hd ht =>
    have htx := txEnd_inTransaction ht
    have hbefore := remaining_inTransaction htx
    have hsecond := txEnd_secondAccess ht
    have hparams := (seqStep_kept h).params
    obtain ⟨htaken, hquiet⟩ := transactionEndsHeldOrQuiet s t d htx h
    by_cases hheld : s.seq = .wrTx ∧ s.work.accKind = .read ∧ d.takesCommand s.latch.addr s.work.accCmdb
    · obtain ⟨hseq, _, _⟩ := htaken hheld
      simp only [remaining, hseq, hheld.1, hsecond, hparams]
      omega
    · obtain ⟨hseq, _, hqcnt⟩ := hquiet hheld
      have hafter : remaining t = s.params.qCycles + 1 + secondAccess s := by
        simp only [remaining, hseq, hqcnt, hsecond]
      omega

/-- A running command of a coherent machine is not held in reset (R240). -/
theorem inReset_of_running {s : State} (hc : Coherent s) (hs : s.seq ≠ .idle) : s.inReset = false := by
  rw [← Bool.not_eq_true]
  intro hrst
  exact hs (congrArg State.seq (hc.atReset hrst))

/-- A command ends within its remaining steps, when each brings an outcome. -/
theorem drive_terminates {n : Nat} {s : State} {ds : List BusDraw} (hc : Coherent s) (hs : s.seq ≠ .idle)
    (hn : remaining s ≤ n) (hds : n ≤ ds.length) :
    ∃ k t, k ≤ n ∧ drive ((ds.take k).map answer) s = .next t ∧ t.seq = .idle ∧ t.done = true := by
  induction n generalizing s ds with
  | zero => exact absurd (remaining_pos hs) (by omega)
  | succ n ih =>
    cases ds with
    | nil => simp at hds
    | cons d ds =>
      have hrst := inReset_of_running hc hs
      obtain ⟨t, ht⟩ := seqStep_next hc (some d)
      have hdrive (k : Nat) : drive (((d :: ds).take (k + 1)).map answer) s = drive ((ds.take k).map answer) t := by
        rw [List.take_succ_cons, List.map_cons]
        exact drive_cons_next ((applyInput_seq hrst).trans ht)
      by_cases hidle : t.seq = .idle
      · have hdone : t.done = true := by
          rcases seqStep_outcome ht with ⟨hdone, _⟩ | ⟨_, _, hiff⟩
          · exact hdone
          · exact absurd (hiff.1 hidle) hs
        exact ⟨1, t, by omega, by rw [hdrive 0]; rfl, hidle, hdone⟩
      · have hless := seqStep_remaining hs ht
        obtain ⟨k, u, hk, hu, hend⟩ := ih (ds := ds) (seqStep_coherent hc hrst ht) hidle (by omega) (by simpa using hds)
        exact ⟨k + 1, u, by omega, by rw [hdrive k, hu], hend⟩

/-- Settles O40: the bound is on the remaining steps of any coherent state. -/
theorem commandsTerminate : Obligations.CommandsTerminate :=
  fun _ _ hc hs hds => drive_terminates hc hs (remaining_le hc) hds

end Sys2Proof.Proofs
end

section
/-! SUPPORT. What of an earlier command's outputs a running command reads: nothing. Two machines that agree on the rest run
a command alike (R58), and the statement of 10 and 41 about it. -/

namespace Sys2Proof.Proofs

open Sys2Proof.Laws Sys2Proof.Machine

/-! ## Two machines that differ in earlier outputs -/

/-- `s` with the outputs of earlier commands, the working registers, QCNT and all that is not the sequencer's from `p`. -/
def graft (p s : State) : State :=
  { p with
    done := s.done
    initDone := s.initDone
    offset := s.offset
    latch := s.latch
    seq := s.seq
    busClk := s.busClk
    busPullup := s.busPullup
    busHeld := s.busHeld
    inReset := s.inReset
    params := s.params }

/-- The commands that read RXB at their end (R148). -/
def readsByte (op : BitVec 4) : Prop := op = opBits .readReg ∨ op = opBits .readConfig ∨ op = opBits .readTemp

/-- The working registers that the running command still reads are the same in `p` as in `s`. -/
structure SameWork (s p : State) : Prop where
  access : s.seq = .wrTx →
    p.work.accKind = s.work.accKind ∧ p.work.accCmdb = s.work.accCmdb ∧
      (s.work.accKind = .write → p.work.accData = s.work.accData)
  stage : s.seq ≠ .idle → s.latch.op = opBits .readTemp → p.work.stage = s.work.stage
  quiet : s.seq = .quiesce →
    p.qcnt = s.qcnt ∧ p.work.accOk = s.work.accOk ∧ (s.work.accOk = false → p.work.accFail = s.work.accFail)
  byte : s.seq = .quiesce ∨ s.seq = .check → s.work.accOk = true → readsByte s.latch.op → p.work.rxb = s.work.rxb

/-- An idle machine reads no working register. -/
theorem sameWork_of_idle {s p : State} (hs : s.seq = .idle) : SameWork s p where
  access := fun h => by rw [hs] at h; cases h
  stage := fun h => absurd hs h
  quiet := fun h => by rw [hs] at h; cases h
  byte := fun h => by rw [hs] at h; rcases h with h | h <;> cases h

/-- Two machines in which a command runs alike: they differ in earlier outputs only, and once idle in none. -/
structure SameRun (s s' : State) : Prop where
  frame : s' = graft s' s
  work : SameWork s s'
  command : s.CommandCoherent
  doneIdle : s.done = true → s.seq = .idle
  outcome : s.seq = .idle → SameOutcome s s'

/-- Both wires grow by the same traffic. -/
def SameTraffic (s t s' t' : State) : Prop := ∃ w, t.wire = s.wire ++ w ∧ t'.wire = s'.wire ++ w

theorem sameTraffic_none {s t s' t' : State} (h : t.wire = s.wire) (h' : t'.wire = s'.wire) : SameTraffic s t s' t' :=
  ⟨[], by rw [h, List.append_nil], by rw [h', List.append_nil]⟩

theorem SameTraffic.trans {s t u s' t' u' : State} (h : SameTraffic s t s' t') (h' : SameTraffic t u t' u') :
    SameTraffic s u s' u' := by
  obtain ⟨w, hw, hw'⟩ := h
  obtain ⟨v, hv, hv'⟩ := h'
  exact ⟨w ++ v, by rw [hv, hw, List.append_assoc], by rw [hv', hw', List.append_assoc]⟩

/-! ## Transactions -/

/-- The require lines of R122 and R124, in the states that have them. -/
structure BusRequired (s : State) : Prop where
  configured : s.busConfigured = true
  free : s.seq = .wrTx → s.busHeld = false

/-- A transaction that ends met its require line. -/
theorem busRequired_of_seqStep {d : BusDraw} {s t : State} (htx : s.seq.inTransaction = true)
    (h : seqStep (some d) s = .next t) : BusRequired s := by
  unfold seqStep at h
  cases hs : s.seq <;> simp only [hs, whenAnswered] at h
  case probeRd =>
    unfold probeRdStep at h
    split at h
    · next hbus => exact ⟨hbus, fun hw => by rw [hs] at hw; cases hw⟩
    · cases h
  case rdTx =>
    unfold rdTxStep at h
    split at h
    · next hbus => exact ⟨hbus, fun hw => by rw [hs] at hw; cases hw⟩
    · cases h
  case wrTx =>
    unfold wrTxStep heldWriteStep wholeWriteStep at h
    cases hreq : s.busConfigured && !s.busHeld with
    | true =>
      simp only [Bool.and_eq_true, Bool.not_eq_true'] at hreq
      exact ⟨hreq.1, fun _ => hreq.2⟩
    | false =>
      simp only [hreq, Bool.false_eq_true, if_false] at h
      split at h <;> cases h
  all_goals simp [hs, Seq.inTransaction] at htx

/-- A transaction whose require line is met ends as the draw says. -/
theorem seqStep_of_txEnd {d : BusDraw} {s t : State} (hreq : BusRequired s) (h : TxEnd d s t) :
    seqStep (some d) s = .next t := by
  obtain ⟨hbus, hfree⟩ := hreq
  cases h with
  | probe hs ht => subst ht; simp [seqStep, hs, whenAnswered, probeRdStep, hbus]
  | heldTaken hs hk ho ht => subst ht; simp [seqStep, hs, whenAnswered, wrTxStep, hk, heldWriteStep, hbus, hfree hs, ho]
  | heldFailed hs hk ho ht => subst ht; simp [seqStep, hs, whenAnswered, wrTxStep, hk, heldWriteStep, hbus, hfree hs, ho]
  | written hs hk ht => subst ht; simp [seqStep, hs, whenAnswered, wrTxStep, hk, wholeWriteStep, hbus, hfree hs]
  | byteRead hs ho ht => subst ht; simp [seqStep, hs, whenAnswered, rdTxStep, hbus, ho]
  | readFailed hs ho ht => subst ht; simp [seqStep, hs, whenAnswered, rdTxStep, hbus, ho]

/-! ## A step of both machines -/

/-- A step from `s` to `t` and one from `p` to `t'` do the same: they leave two machines that differ in earlier outputs
only, with the same outcome once the sequencer is idle, and put the same traffic on the wire. -/
structure StepsAlike (s t p t' : State) : Prop where
  frame : t' = graft t' t
  work : SameWork t t'
  traffic : SameTraffic s t p t'
  outcome : t.seq = .idle → SameOutcome t t'

/-- Both machines complete with the same outcome. -/
theorem stepsAlike_complete {s p u v : State} (hframe : v = graft v u) (htraffic : SameTraffic s u p v) (c : Code)
    (r : Word) (b : Bool) : StepsAlike s (u.complete c r b) p (v.complete c r b) where
  frame := congrArg (State.complete c r b) hframe
  work := sameWork_of_idle rfl
  traffic := htraffic
  outcome := fun _ => ⟨rfl, rfl, rfl⟩

/-- Both machines complete in a step that puts nothing on the wire. -/
theorem stepsAlike_complete_quietly {s p u v : State} (hframe : v = graft v u) (hu : u.wire = s.wire)
    (hv : v.wire = p.wire) (c : Code) (r : Word) (b : Bool) :
    StepsAlike s (u.complete c r b) p (v.complete c r b) :=
  stepsAlike_complete hframe (sameTraffic_none hu hv) c r b

/-- What a transaction that goes to QUIESCE leaves: QCNT is loaded, so only the access's end matters. -/
theorem sameWork_of_quiesce {t t' : State} (hseq : t.seq = .quiesce)
    (hstage : t.latch.op = opBits .readTemp → t'.work.stage = t.work.stage)
    (hquiet : t'.qcnt = t.qcnt ∧ t'.work.accOk = t.work.accOk ∧ (t.work.accOk = false → t'.work.accFail = t.work.accFail))
    (hbyte : t.work.accOk = true → readsByte t.latch.op → t'.work.rxb = t.work.rxb) : SameWork t t' where
  access := fun h => by rw [hseq] at h; cases h
  stage := fun _ => hstage
  quiet := fun _ => hquiet
  byte := fun _ => hbyte

/-- A read access starts in both machines (R145). -/
theorem startRead_alike {s p : State} (c : Byte)
    (hstage : s.latch.op = opBits .readTemp → p.work.stage = s.work.stage) :
    StepsAlike s (s.startRead c) p ((graft p s).startRead c) :=
  ⟨rfl, ⟨fun _ => ⟨rfl, rfl, nofun⟩, fun _ => hstage, nofun, nofun⟩, sameTraffic_none rfl rfl, nofun⟩

/-- An access of READ_TEMP starts in both machines, with its STAGE (R145, R150). -/
theorem setStage_startRead_alike {s p : State} (g : Stage) (c : Byte) :
    StepsAlike s ((s.setStage g).startRead c) p (((graft p s).setStage g).startRead c) :=
  ⟨rfl, ⟨fun _ => ⟨rfl, rfl, nofun⟩, fun _ _ => rfl, nofun, nofun⟩, sameTraffic_none rfl rfl, nofun⟩

/-- A write access starts in both machines (R145). -/
theorem startWrite_alike {s p : State} (c v : Byte)
    (hstage : s.latch.op = opBits .readTemp → p.work.stage = s.work.stage) :
    StepsAlike s (s.startWrite c v) p ((graft p s).startWrite c v) :=
  ⟨rfl, ⟨fun _ => ⟨rfl, rfl, fun _ => rfl⟩, fun _ => hstage, nofun, nofun⟩, sameTraffic_none rfl rfl, nofun⟩

/-- PROBE and the commands that write do not read RXB. -/
theorem not_readsByte {op : Opcode} (h : op = .probe ∨ op = .writeReg ∨ op = .setStandby) : ¬ readsByte (opBits op) := by
  unfold readsByte
  rcases h with rfl | rfl | rfl <;> decide

/-- PostAccess of both machines: the same outcome, or CHECK for both (R148). -/
theorem finishOf_alike {op : Opcode} {u v : State} (hop : op ≠ .init) (h : SameWork u v) (hseq : u.seq = .quiesce)
    (hlatch : u.latch.op = opBits op) (hv : v.latch = u.latch) :
    (∃ c r b, finishOf op u = u.complete c r b ∧ finishOf op v = v.complete c r b) ∨
      (u.work.accOk = true ∧ finishOf op u = { u with seq := .check } ∧ finishOf op v = { v with seq := .check }) := by
  obtain ⟨_, hok, hfail⟩ := h.quiet hseq
  have hrun : u.seq ≠ .idle := by rw [hseq]; exact nofun
  have hcode (he : u.work.accOk = false) : v.failCode = u.failCode := by simp only [State.failCode, hfail he]
  have hbyte (he : u.work.accOk = true) (hr : readsByte (opBits op)) : v.work.rxb = u.work.rxb :=
    h.byte (.inl hseq) he (hlatch ▸ hr)
  cases op with
  | init => exact absurd rfl hop
  | probe => exact .inl ⟨_, _, _, rfl, by simp only [finishOf, finishProbe, hok]⟩
  | setStandby =>
    cases he : u.work.accOk <;>
      exact .inl ⟨_, _, _, by simp only [finishOf, finishSetStandby, he]; rfl,
        by simp only [finishOf, finishSetStandby, hok, he]; rfl⟩
  | writeReg =>
    cases he : u.work.accOk <;>
      exact .inl ⟨_, _, _, by simp only [finishOf, finishWriteReg, he]; rfl,
        by simp only [finishOf, finishWriteReg, hok, he]; rfl⟩
  | readReg =>
    cases he : u.work.accOk with
    | false =>
      exact .inl ⟨_, _, _, by simp only [finishOf, finishReadReg, he]; rfl,
        by simp only [finishOf, finishReadReg, hok, he, hcode he]; rfl⟩
    | true =>
      exact .inl ⟨_, _, _, by simp only [finishOf, finishReadReg, he]; rfl,
        by simp only [finishOf, finishReadReg, hok, he, hbyte he (.inl rfl)]; rfl⟩
  | readConfig =>
    cases he : u.work.accOk with
    | false =>
      exact .inl ⟨_, _, _, by simp only [finishOf, finishReadConfig, he]; rfl,
        by simp only [finishOf, finishReadConfig, hok, he, hcode he]; rfl⟩
    | true =>
      exact .inl ⟨_, _, _, by simp only [finishOf, finishReadConfig, he]; rfl,
        by simp only [finishOf, finishReadConfig, hok, he, hbyte he (.inr (.inl rfl))]; rfl⟩
  | readTemp =>
    have hstage := h.stage hrun hlatch
    cases hs : u.work.stage <;> cases he : u.work.accOk
    case config.true =>
      exact .inr ⟨rfl, by simp only [finishOf, finishReadTemp, hs, he]; rfl,
        by simp only [finishOf, finishReadTemp, hstage, hs, hok, he]; rfl⟩
    case temp.true =>
      exact .inl ⟨_, _, _, by simp only [finishOf, finishReadTemp, hs, he]; rfl,
        by simp only [finishOf, finishReadTemp, hstage, hs, hok, he, hbyte he (.inr (.inr rfl)), hv]; rfl⟩
    all_goals
      exact .inl ⟨_, _, _, by simp only [finishOf, finishReadTemp, hs, he]; rfl,
        by simp only [finishOf, finishReadTemp, hstage, hs, hok, he, hcode he]; rfl⟩

/-- The end of a transaction of both machines (R146). -/
theorem txEnd_alike {d : BusDraw} {s p t : State} (h : SameWork s p) (hc : s.CommandCoherent) (ht : TxEnd d s t) :
    ∃ t', TxEnd d (graft p s) t' ∧ StepsAlike s t p t' := by
  have hstage := h.stage (ne_idle_of_inTransaction (txEnd_inTransaction ht))
  cases ht with
  | probe hs ht =>
    simp only [State.CommandCoherent, hs] at hc
    subst ht
    refine ⟨_, .probe hs rfl, rfl, sameWork_of_quiesce rfl hstage ⟨rfl, rfl, fun _ => rfl⟩ ?_, ⟨_, rfl, rfl⟩, nofun⟩
    exact fun _ hr => absurd (hc.1 ▸ hr) (not_readsByte (.inl rfl))
  | heldTaken hs hk ho ht =>
    obtain ⟨hkind, hcmdb, _⟩ := h.access hs
    subst ht
    refine ⟨{ (graft p s).afterTx (busWrite s.latch.addr [s.work.accCmdb] false d) with seq := .rdTx },
      .heldTaken hs (hkind.trans hk) (hcmdb ▸ ho) (by rw [← hcmdb]; rfl), rfl, ?_, ⟨_, rfl, rfl⟩, nofun⟩
    exact ⟨nofun, fun _ => hstage, nofun, nofun⟩
  | heldFailed hs hk ho ht =>
    obtain ⟨hkind, hcmdb, _⟩ := h.access hs
    subst ht
    exact ⟨(((graft p s).afterTx (busWrite s.latch.addr [s.work.accCmdb] false d)).recordAccess false false).enterQuiesce,
      .heldFailed hs (hkind.trans hk) (hcmdb ▸ ho) (by rw [← hcmdb]; rfl), rfl,
      sameWork_of_quiesce rfl hstage ⟨rfl, rfl, fun _ => rfl⟩ nofun, ⟨_, rfl, rfl⟩, nofun⟩
  | written hs hk ht =>
    obtain ⟨hkind, hcmdb, hdata⟩ := h.access hs
    simp only [State.CommandCoherent, hs, hk] at hc
    subst ht
    refine ⟨(((graft p s).afterTx (busWrite s.latch.addr [s.work.accCmdb, s.work.accData] true d)).recordAccess
        ((busWrite s.latch.addr [s.work.accCmdb, s.work.accData] true d).outcome == .count 2) false).enterQuiesce,
      .written hs (hkind.trans hk) (by rw [← hcmdb, ← hdata hk]; rfl), rfl,
      sameWork_of_quiesce rfl hstage ⟨rfl, rfl, fun _ => rfl⟩ ?_, ⟨_, rfl, rfl⟩, nofun⟩
    rcases hc.2 with ⟨hop, _⟩ | ⟨hop, _⟩
    · exact fun _ hr => absurd (hop ▸ hr) (not_readsByte (.inr (.inl rfl)))
    · exact fun _ hr => absurd (hop ▸ hr) (not_readsByte (.inr (.inr rfl)))
  | byteRead hs ho ht =>
    subst ht
    exact ⟨_, .byteRead hs ho rfl, rfl, sameWork_of_quiesce rfl hstage ⟨rfl, rfl, nofun⟩ fun _ _ => rfl, ⟨_, rfl, rfl⟩,
      nofun⟩
  | readFailed hs ho ht =>
    subst ht
    exact ⟨_, .readFailed hs ho rfl, rfl, sameWork_of_quiesce rfl hstage ⟨rfl, rfl, fun _ => rfl⟩ nofun, ⟨_, rfl, rfl⟩, nofun⟩

/-- QUIESCE at QCNT 0 of both machines: the interval is logged and PostAccess ends alike (R146, R148). -/
theorem quietEnd_alike {s p t : State} (h : SameWork s p) (hc : s.CommandCoherent) (hs : s.seq = .quiesce)
    (ht : postAccess s.logQuiet = .next t) :
    ∃ t', postAccess (graft p s).logQuiet = .next t' ∧ StepsAlike s t p t' := by
  simp only [State.CommandCoherent, hs] at hc
  obtain ⟨_, op, hop, hlatch⟩ := hc
  rw [postAccess_of_op (s := s.logQuiet) hop hlatch] at ht
  cases ht
  refine ⟨_, postAccess_of_op (s := (graft p s).logQuiet) hop hlatch, ?_⟩
  have hwork : SameWork s.logQuiet (graft p s).logQuiet := ⟨h.access, h.stage, h.quiet, h.byte⟩
  have hgrow : SameTraffic s s.logQuiet p (graft p s).logQuiet := ⟨[.quiet], rfl, rfl⟩
  rcases finishOf_alike hop hwork hs hlatch rfl with ⟨c, r, b, hu, hv⟩ | ⟨hok, hu, hv⟩ <;> rw [hu, hv]
  · exact stepsAlike_complete rfl hgrow c r b
  · have hrun : s.seq ≠ .idle := by rw [hs]; exact nofun
    exact ⟨rfl, ⟨nofun, fun _ => h.stage hrun, nofun, fun _ => h.byte (.inl hs)⟩, hgrow, nofun⟩

/-- CHECK of both machines (R150): the configuration byte is the same. -/
theorem checkReady_alike {s p : State} (h : SameWork s p) (hc : s.CommandCoherent) (hs : s.seq = .check) :
    StepsAlike s (checkReady s) p (checkReady (graft p s)) := by
  simp only [State.CommandCoherent, hs] at hc
  obtain ⟨_, hop, _, hok⟩ := hc
  have hrxb : p.work.rxb = s.work.rxb := h.byte (.inr hs) hok (.inr (.inr hop))
  unfold checkReady
  rw [show (graft p s).work.rxb = s.work.rxb from hrxb]
  split
  · exact setStage_startRead_alike _ _
  · exact stepsAlike_complete_quietly (s := s) (p := p) (u := s) (v := graft p s) rfl rfl rfl _ _ _

/-- A sequencer step of both machines (R146). -/
theorem seqStep_alike {d : Option BusDraw} {s p t : State} (h : SameWork s p) (hc : s.CommandCoherent)
    (hout : s.seq = .idle → SameOutcome s p) (ht : seqStep d s = .next t) :
    ∃ t', seqStep d (graft p s) = .next t' ∧ StepsAlike s t p t' := by
  cases seqStep_cases ht with
  | rests hrest hs =>
    subst hrest
    refine ⟨graft p t, ?_, rfl, ⟨h.access, h.stage, h.quiet, h.byte⟩, sameTraffic_none rfl rfl,
      fun hidle => ⟨(hout hidle).result, (hout hidle).code, (hout hidle).subop⟩⟩
    rcases hs with hidle | ⟨rfl, htx⟩
    · simp only [seqStep, show (graft p t).seq = .idle from hidle]
    · exact seqStep_none_inTransaction (s := graft p t) htx
  | configures hs hend =>
    subst hend
    exact ⟨finishInit (graft p s), by simp only [seqStep, show (graft p s).seq = .cfg from hs],
      stepsAlike_complete_quietly (s := s) (p := p) (u := s.configureBus) (v := (graft p s).configureBus) rfl
        rfl rfl _ _ _⟩
  | counts hs hq hend =>
    subst hend
    obtain ⟨hqcnt, hok, hfail⟩ := h.quiet hs
    refine ⟨{ graft p s with qcnt := p.qcnt - 1 }, ?_, rfl, ?_, sameTraffic_none rfl rfl, fun hidle => ?_⟩
    · have hq' : (graft p s).qcnt ≠ 0 := hqcnt ▸ hq
      simp only [seqStep, show (graft p s).seq = .quiesce from hs, quiesceStep, hq', if_false]
      rfl
    · exact ⟨h.access, h.stage, fun _ => ⟨congrArg (· - 1) hqcnt, hok, hfail⟩, h.byte⟩
    · exact absurd (hs.symm.trans hidle) nofun
  | finishes hs hq hend =>
    obtain ⟨t', hend', halike⟩ := quietEnd_alike h hc hs hend
    refine ⟨t', ?_, halike⟩
    have hq' : (graft p s).qcnt = 0 := (h.quiet hs).1.trans hq
    simp only [seqStep, show (graft p s).seq = .quiesce from hs, quiesceStep, hq', if_true]
    exact hend'
  | checks hs hend =>
    subst hend
    exact ⟨_, by simp only [seqStep, show (graft p s).seq = .check from hs], checkReady_alike h hc hs⟩
  | ends x hd hend =>
    subst hd
    obtain ⟨t', hend', halike⟩ := txEnd_alike h hc hend
    obtain ⟨hconfigured, hfree⟩ := busRequired_of_seqStep (txEnd_inTransaction hend) ht
    exact ⟨t', seqStep_of_txEnd ⟨hconfigured, hfree⟩ hend', halike⟩

/-- A sequencer step keeps two machines alike. -/
theorem seqStep_sameRun {d : Option BusDraw} {s s' t : State} (h : SameRun s s') (ht : seqStep d s = .next t) :
    ∃ t', seqStep d s' = .next t' ∧ SameRun t t' ∧ SameTraffic s t s' t' := by
  obtain ⟨t', ht', hframe, hwork, htraffic, hout⟩ := seqStep_alike h.work h.command h.outcome ht
  refine ⟨t', (congrArg (seqStep d) h.frame).trans ht', ⟨hframe, hwork, seqStep_commandCoherent h.command ht, ?_, hout⟩,
    htraffic⟩
  intro hdone
  rcases seqStep_outcome ht with ⟨_, hidle⟩ | ⟨_, hkeep, hiff⟩
  · exact hidle
  · exact hiff.2 (h.doneIdle (hkeep ▸ hdone))

/-! ## Runs of both machines -/

/-- Sequencer steps keep two machines alike. -/
theorem drive_sameRun {ds : List (Option BusDraw)} {s s' t : State} (h : SameRun s s') (hrst : s.inReset = false)
    (ht : drive (ds.map Input.seq) s = .next t) :
    ∃ t', drive (ds.map Input.seq) s' = .next t' ∧ SameRun t t' ∧ SameTraffic s t s' t' := by
  induction ds generalizing s s' with
  | nil => cases ht; exact ⟨s', rfl, h, sameTraffic_none rfl rfl⟩
  | cons d ds ih =>
    have hrst' : s'.inReset = false := (congrArg State.inReset h.frame).trans hrst
    rw [List.map_cons, drive_cons, applyInput_seq hrst] at ht
    cases hu : seqStep d s with
    | fault f => rw [hu] at ht; cases ht
    | refused r => rw [hu] at ht; cases ht
    | next u =>
      rw [hu] at ht
      obtain ⟨u', hu', hsame, hgrow⟩ := seqStep_sameRun h hu
      obtain ⟨t', ht', hend, hrest⟩ := ih hsame ((seqStep_kept hu).inReset.trans hrst) ht
      exact ⟨t', (drive_cons_next ((applyInput_seq hrst').trans hu')).trans ht', hend, hgrow.trans hrest⟩

/-! ## Acceptance in both machines -/

/-- The dispatch of a command sets every working register the command reads before it writes it (R145). -/
theorem dispatchOf_alike {op : Opcode} {s p : State} (hop : op ≠ .init) (hlatch : s.latch.op = opBits op) :
    StepsAlike s (dispatchOf op s) p (dispatchOf op (graft p s)) := by
  have hother (hne : op ≠ .readTemp) (h : s.latch.op = opBits .readTemp) : p.work.stage = s.work.stage :=
    absurd (opBits_injective (hlatch ▸ h)) hne
  cases op with
  | init => exact absurd rfl hop
  | probe => exact ⟨rfl, ⟨nofun, fun _ => hother nofun, nofun, nofun⟩, sameTraffic_none rfl rfl, nofun⟩
  | readTemp => exact setStage_startRead_alike _ _
  | readConfig => exact startRead_alike _ (hother nofun)
  | readReg => exact startRead_alike _ (hother nofun)
  | writeReg => exact startWrite_alike _ _ (hother nofun)
  | setStandby => exact startWrite_alike _ _ (hother nofun)

/-- The checks at acceptance read what the machines agree on (R143). -/
theorem bodyOf_alike {op : Opcode} {s p : State} (hlatch : s.latch.op = opBits op) :
    StepsAlike s (bodyOf op s) p (bodyOf op (graft p s)) := by
  have hcompletes (c : Code) (r : Word) : StepsAlike s (s.complete c r false) p ((graft p s).complete c r false) :=
    stepsAlike_complete_quietly (s := s) (p := p) (u := s) (v := graft p s) rfl rfl rfl c r false
  by_cases hinit : s.initDone = true
  · by_cases hop : op = .init
    · subst hop
      rw [bodyOf_secondInit hinit, bodyOf_secondInit (s := graft p s) hinit]
      exact hcompletes _ _
    · by_cases haddr : s.latch.addr ∈ s.params.legalAddrs
      · rw [bodyOf_dispatch hop hinit haddr, bodyOf_dispatch (s := graft p s) hop hinit haddr]
        exact dispatchOf_alike hop hlatch
      · rw [bodyOf_illegalAddr hop hinit haddr, bodyOf_illegalAddr (s := graft p s) hop hinit haddr]
        exact hcompletes _ _
  · have hinit' : s.initDone = false := Bool.eq_false_iff.2 hinit
    by_cases hop : op = .init
    · subst hop
      rw [bodyOf_firstInit hinit', bodyOf_firstInit (s := graft p s) hinit']
      have hother : ¬ s.latch.op = opBits .readTemp := by rw [hlatch]; decide
      exact ⟨rfl, ⟨nofun, fun _ h => absurd h hother, nofun, nofun⟩, sameTraffic_none rfl rfl, nofun⟩
    · rw [bodyOf_notInit hop hinit', bodyOf_notInit (s := graft p s) hop hinit']
      exact hcompletes _ _

/-- DONE is 1 after the accepting step only when it completed the command (R142, R143). -/
theorem bodyOf_doneIdle {op : Opcode} {s : State} (hdone : s.done = false) (h : (bodyOf op s).done = true) :
    (bodyOf op s).seq = .idle := by
  rcases bodyOf_cases op s with ⟨c, r, hbody⟩ | ⟨x, k, _, hbody⟩ <;> rw [hbody] at h ⊢
  · rfl
  · exact absurd (hdone.symm.trans h) nofun

/-- A command issued to an idle machine is accepted and its checks run (R140, R142). -/
theorem applyInput_issueAccess {i : Instr} {s : State} (hs : s.seq = .idle) (hrst : s.inReset = false) :
    applyInput (.host (issueAccess i)) s = .next (bodyOf i.opcode (s.accept (encode i))) :=
  (hostStep_issueAccess hrst).trans (cmdWrite_idle_of_decode_ok hs (decode_encode i))

/-- A command accepted by two machines that agree on INIT, BUSCFG, OFFSET, the parameters and BUS_HELD starts alike. -/
theorem issue_sameRun {i : Instr} {s s' : State}
    (hframe : s'.accept (encode i) = graft (s'.accept (encode i)) (s.accept (encode i))) :
    SameRun (bodyOf i.opcode (s.accept (encode i))) (bodyOf i.opcode (s'.accept (encode i))) ∧
      SameTraffic s (bodyOf i.opcode (s.accept (encode i))) s' (bodyOf i.opcode (s'.accept (encode i))) := by
  obtain ⟨hrow, _, _⟩ := encodedFields i
  have hlatch : (s.accept (encode i)).latch.op = opBits i.opcode := fieldOp_of_hitsRow hrow
  obtain ⟨h₁, h₂, h₃, h₄⟩ := bodyOf_alike (p := s'.accept (encode i)) hlatch
  rw [← hframe] at h₁ h₂ h₃ h₄
  exact ⟨⟨h₁, h₂, bodyOf_commandCoherent hlatch, bodyOf_doneIdle rfl, h₄⟩, h₃⟩

/-- Settles O31: the command starts alike in both machines, and every sequencer step keeps them alike. -/
theorem commandsIgnoreEarlierOutputs : Obligations.CommandsIgnoreEarlierOutputs := by
  intro s s' t i ds hs hs' hrst hrst' hparams hinit hclk hpullup hheld hoffset ht
  have hframe : s'.accept (encode i) = graft (s'.accept (encode i)) (s.accept (encode i)) := by
    simp only [State.accept, graft, hs, hs', hrst, hrst', hparams, hinit, hclk, hpullup, hheld, hoffset]
  obtain ⟨hstart, hfirst⟩ := issue_sameRun hframe
  rw [drive_cons_next (applyInput_issueAccess hs hrst)] at ht
  have hrun : (bodyOf i.opcode (s.accept (encode i))).inReset = false := by
    rcases bodyOf_cases i.opcode (s.accept (encode i)) with ⟨c, r, hbody⟩ | ⟨x, k, _, hbody⟩ <;> rw [hbody] <;> exact hrst
  obtain ⟨t', ht', hend, hrest⟩ := drive_sameRun hstart hrun ht
  have hseq : t'.seq = t.seq := (congrArg State.seq hend.frame).trans rfl
  have hdone' : t'.done = t.done := (congrArg State.done hend.frame).trans rfl
  refine ⟨t', (drive_cons_next (applyInput_issueAccess hs' hrst')).trans ht', hseq, hdone',
    hfirst.trans hrest, fun hdone => ?_⟩
  obtain ⟨hresult, hcode, hsubop⟩ := hend.outcome (hend.doneIdle hdone)
  exact ⟨hcode, hresult, hsubop⟩

end Sys2Proof.Proofs
end
